-- ==== Sys2Proof/Word.lean ====
section
/-! DEFINITION. The value types of the block: bytes, byte lists and the 5-byte pipe address (spec/00_scope.md R9,
spec/10_state.md R26). Nothing here can wrap: the block does no word arithmetic beyond masking a byte. -/

namespace Sys2Proof

/-- An unsigned 8-bit value (R9). -/
abbrev Byte := BitVec 8

/-- A finite list of bytes; order on the bus is list order (R9, R61). -/
abbrev Bytes := List Byte

/-- A pipe address: a "fixed-length byte sequence, length = 5" (R26). -/
abbrev Address := Vector Byte 5

end Sys2Proof
end

