-- ==== Sys2Proof/Machine/Flags.lean ====
section
/-! DEFINITION. The named bits of the chip's STATUS byte (spec/10_state.md R29, R32) and of its CONFIG byte (R31), and
every test the block makes of a status byte. The block holds no copy of the flags (R29). -/

namespace Sys2Proof.Machine

/-! ## STATUS (R32) -/

/-- RX-data-ready, bit 6. -/
def rxDr : Byte := 0x40
/-- TX-done, bit 5. -/
def txDs : Byte := 0x20
/-- Max-retries-exceeded, bit 4. -/
def maxRt : Byte := 0x10

/-- One of the flags of `mask` is set in the status byte `s`. -/
def flagSet (s mask : Byte) : Bool := s &&& mask != 0

/-- `s & (TX_DS | MAX_RT)`: the flags a transmit poll looks at, and the byte that clears those it saw (R190, D13). -/
def txFlags (s : Byte) : Byte := s &&& (txDs ||| maxRt)

/-- The byte initialize clears every flag with, 0x70 (R161). -/
def allFlags : Byte := rxDr ||| txDs ||| maxRt

/-! ## CONFIG (R31): each value is written whole, the unnamed bits 0 (D8; log 20) -/

/-- PRIM_RX, the receive-mode bit, bit 0. -/
def primRx : Byte := 0x01
/-- PWR_UP, bit 1. -/
def pwrUp : Byte := 0x02
/-- EN_CRC, bit 3. -/
def enCrc : Byte := 0x08

/-- "Power down with CRC enabled": 0x08 (R31, R161). -/
def configInit : Byte := enCrc
/-- "Power-up set and receive-mode bit cleared": 0x0A (R31, R162). -/
def configTransmit : Byte := enCrc ||| pwrUp
/-- "Power-up and receive-mode bits set": 0x0B (R31, R163). -/
def configReceive : Byte := enCrc ||| pwrUp ||| primRx

end Sys2Proof.Machine
end

