-- ==== Sys2Proof/Config.lean ====
section
/-! DEFINITION. What is fixed for a machine: the parameters whose values the spec gives (spec/00_scope.md R6), the open
parameters it leaves to the model's user (R7), and the free values of the environment's answers (R8; U4). -/

namespace Sys2Proof

/-- MAX_PAYLOAD (R6): payload bytes on the wire, and the cap of a register data phase. -/
def maxPayload : Nat := 32
/-- CHANNEL_MAX (R6). -/
def channelMax : Int := 125
/-- POWER_MAX (R6). -/
def powerMax : Int := 3
/-- POLL_LIMIT (R6). -/
def pollLimit : Nat := 1000
/-- POLL_INTERVAL_MS (R6). -/
def pollIntervalMs : Nat := 1
/-- STARTUP_MS (R6). -/
def startupMs : Nat := 100
/-- SETTLE_MS (R6). -/
def settleMs : Nat := 2
/-- CE_PULSE_MS (R6). -/
def cePulseMs : Nat := 1
/-- RX_PAYLOAD_WIDTH (R6), the byte written to RX_PW_P0. -/
def rxPayloadWidth : Byte := 32

/-- The open parameters of R7, each ranging over exactly the values R7 allows (log 5, log 14). ADDR_LEN of R6 is the
length of `Address`. -/
structure Params where
  /-- DUMMY_BYTE: the byte of a read frame's data phase (R95). -/
  dummyByte        : Byte
  /-- RF_SETUP_BASE before its power bits are cleared; see `Params.rfSetupBase` (log 14). -/
  rfSetupRest      : Byte
  /-- CFG_DEFAULT_CHANNEL, 0..125. -/
  defaultChannel   : Fin 126
  /-- CFG_DEFAULT_POWER, 0..3. -/
  defaultPower     : Fin 4
  /-- DEFAULT_ADDRESS, five bytes. -/
  defaultAddress   : Address
  /-- TRANSPORT_CAN_FAIL: whether the environment may answer an exchange with `Fail`. -/
  transportCanFail : Bool
deriving DecidableEq, Repr, Inhabited

/-- RF_SETUP_BASE, any byte with `RF_SETUP_BASE & 0x06 = 0` (R7, R33). -/
def Params.rfSetupBase (p : Params) : Byte := p.rfSetupRest &&& 0xF9

/-- FREE VALUE. The parameters of the machine that `State.reset` constructs: the spec gives none (R7; log 5). -/
opaque Config.params : Params

/-- FREE VALUE. Whether the environment fails its `n`-th exchange, where no answer was laid down for it and the
transport can fail (R8, U2; log 3). -/
opaque Config.freeFails : Nat → Bool

/-- FREE VALUE. Byte `k` of the environment's answer to its `n`-th exchange, where none was laid down (R8, U4;
log 3). -/
opaque Config.freeByte : Nat → Nat → Byte

end Sys2Proof
end

