-- ==== Sys2Proof/Syntax.lean ====
section
/-! DEFINITION. The instructions, one constructor per row of spec/opcode_table.json, the ten chip registers
(spec/10_state.md R30), and the lines of programs (spec/30_encoding.md R102). -/

namespace Sys2Proof

/-- The fourteen rows of the opcode table: nine bus commands, each one call of a RegisterAccess primitive
(R121 to R129), and five requests of the command port (R98). -/
inductive Instr where
  /-- R_REGISTER, `RA.READ(a)` (R121). -/
  | rRegister (a : Byte)
  /-- R_REGISTER_MULTI, `RA.READ_MULTI(a, n)`; `n` is an integer (R123). -/
  | rRegisterMulti (a : Byte) (n : Int)
  /-- W_REGISTER, `RA.WRITE(a, v)` (R122). -/
  | wRegister (a v : Byte)
  /-- W_REGISTER_MULTI, `RA.WRITE_MULTI(a, bs)` (R124). -/
  | wRegisterMulti (a : Byte) (bs : List Byte)
  /-- R_RX_PAYLOAD, `RA.READ_PAYLOAD` (R129). -/
  | rRxPayload
  /-- W_TX_PAYLOAD, `RA.WRITE_PAYLOAD(q)` (R128). -/
  | wTxPayload (q : List Byte)
  /-- FLUSH_TX (R125). -/
  | flushTx
  /-- FLUSH_RX (R126). -/
  | flushRx
  /-- NOP, `RA.STATUS` (R127). -/
  | nop
  /-- Request 000 (R232). -/
  | init
  /-- Request 001; the operands are integers of any size and sign (R230, R233). -/
  | configure (channel power : Int)
  /-- Request 010; the payload has any length (R234). -/
  | send (payload : List Byte)
  /-- Request 011 (R235). -/
  | startReceive
  /-- Request 100 (R236). -/
  | receive
deriving DecidableEq, Repr

/-- The ten chip registers the block reaches (R30). -/
inductive Reg where
  | config | enAa | enRxaddr | setupAw | rfCh | rfSetup | status | rxAddrP0 | txAddr | rxPwP0
deriving DecidableEq, Repr

/-- The request record of the command port: a 3-bit code and its operands (R98). -/
structure Request where
  op      : BitVec 3
  channel : Int
  power   : Int
  payload : List Byte
deriving DecidableEq, Repr

/-- One line of a program of either level (R102): a request (R98), or a frame, given as its bytes (log 7). -/
inductive PortItem where
  | request (r : Request)
  | frame (out : List Byte)
deriving DecidableEq, Repr

/-- Whether the instruction is a request of the command port, and not a bus command run on its own. -/
def Instr.isRequest : Instr → Bool
  | .init => true
  | .configure _ _ => true
  | .send _ => true
  | .startReceive => true
  | .receive => true
  | .rRegister _ => false
  | .rRegisterMulti _ _ => false
  | .wRegister _ _ => false
  | .wRegisterMulti _ _ => false
  | .rRxPayload => false
  | .wTxPayload _ => false
  | .flushTx => false
  | .flushRx => false
  | .nop => false

/-- A bus command whose data phase is dummy bytes (R91: F-RR, F-PR). -/
def Instr.readsData : Instr → Bool
  | .rRegister _ => true
  | .rRegisterMulti _ _ => true
  | .rRxPayload => true
  | .wRegister _ _ => false
  | .wRegisterMulti _ _ => false
  | .wTxPayload _ => false
  | .flushTx => false
  | .flushRx => false
  | .nop => false
  | .init => false
  | .configure _ _ => false
  | .send _ => false
  | .startReceive => false
  | .receive => false

end Sys2Proof
end

