-- ==== Sys2Proof/Decode.lean ====
section
/-! DEFINITION. The two encodings of the block (spec/30_encoding.md): the bytes of a bus frame (R90 to R97) and the
request record of the command port (R98). The decoder is total and refuses by name; the encoder stands after it. A frame
is delimited from outside, by the CSN bracket (R101), so the decoder takes a whole frame. -/

namespace Sys2Proof

/-- Why a port item stands for no instruction. -/
inductive DecodeError where
  /-- A request whose op code is 101, 110 or 111 (R98, R237). -/
  | unassignedRequest (op : BitVec 3)
  /-- A frame with no command byte: every frame has `1 + n` bytes (R90). -/
  | emptyFrame
  /-- A command byte outside the seven patterns of R97 (R100). -/
  | unknownCommand (cmd : Byte)
  /-- A data phase of `n` bytes after a command whose format has another fixed length and whose primitive takes no
  length: R_RX_PAYLOAD, FLUSH_TX, FLUSH_RX, NOP (R91, R101). -/
  | badFrameLength (cmd : Byte) (n : Nat)
deriving DecidableEq, Repr

/-- What the decoder answers. -/
inductive Decoded where
  | instr (i : Instr)
  | reject (e : DecodeError)
deriving DecidableEq, Repr

/-- The instruction, where there is one. -/
def Decoded.toOption : Decoded → Option Instr
  | .instr i => some i
  | .reject _ => none

/-! ## Command bytes (R92, R93, R97) -/

/-- `cmd_read(a) = 0x00 | a` (R93). -/
def cmdRead (a : Byte) : Byte := 0x00 ||| a
/-- `cmd_write(a) = 0x20 | a` (R93). -/
def cmdWrite (a : Byte) : Byte := 0x20 ||| a
/-- R_RX_PAYLOAD (R97). -/
def cmdReadPayload : Byte := 0x61
/-- W_TX_PAYLOAD (R97). -/
def cmdWritePayload : Byte := 0xA0
/-- FLUSH_TX (R97). -/
def cmdFlushTx : Byte := 0xE1
/-- FLUSH_RX (R97). -/
def cmdFlushRx : Byte := 0xE2
/-- NOP (R97). -/
def cmdNop : Byte := 0xFF

/-- The seven commands of the opcode map (R97). -/
inductive Command where
  | rRegister | wRegister | rRxPayload | wTxPayload | flushTx | flushRx | nop
deriving DecidableEq, Repr

/-- One row of the opcode map: a command byte `c` is this command when `c & mask = pattern`. -/
structure CommandRow where
  cmd     : Command
  pattern : Byte
  mask    : Byte
deriving DecidableEq, Repr

/-- The opcode map of R97, row for row. -/
def commandRows : List CommandRow :=
  [⟨.rRegister, 0x00, 0xE0⟩, ⟨.wRegister, 0x20, 0xE0⟩, ⟨.rRxPayload, 0x61, 0xFF⟩, ⟨.wTxPayload, 0xA0, 0xFF⟩,
   ⟨.flushTx, 0xE1, 0xFF⟩, ⟨.flushRx, 0xE2, 0xFF⟩, ⟨.nop, 0xFF, 0xFF⟩]

/-- The command byte is the row's. -/
def CommandRow.hits (c : Byte) (r : CommandRow) : Bool := c &&& r.mask == r.pattern

/-- The command a command byte stands for, if any (R97, R100). -/
def commandOf (c : Byte) : Option Command := (commandRows.find? (CommandRow.hits c)).map CommandRow.cmd

/-- The register address of a register command byte: bits 4:0 (R92). -/
def addrField (c : Byte) : Byte := c &&& 0x1F

/-! ## The decoder -/

/-- A register read frame: one data byte is R_REGISTER, any other number is R_REGISTER_MULTI, which answers
`Failure(Length)` outside 1 to 32 (R97, R123, U11; log 13). The dummy bytes carry nothing and are not looked at (R95;
log 12). -/
def decodeRead (c : Byte) (data : Bytes) : Instr :=
  if data.length = 1 then .rRegister (addrField c) else .rRegisterMulti (addrField c) data.length

/-- A register write frame: one data byte is W_REGISTER, any other number is W_REGISTER_MULTI, which answers
`Failure(Length)` outside 1 to 32 (R97, R124, U11; log 13). -/
def decodeWrite (c : Byte) (data : Bytes) : Instr :=
  match data with
  | [v] => .wRegister (addrField c) v
  | _ => .wRegisterMulti (addrField c) data

/-- A command whose data phase has exactly `n` bytes and carries no operand (R91: F-PR, F-C). -/
def decodeExact (n : Nat) (i : Instr) (c : Byte) (data : Bytes) : Decoded :=
  if data.length = n then .instr i else .reject (.badFrameLength c data.length)

/-- The instruction a whole bus frame stands for (R91, R97). Where the primitive takes a data phase of any length and
checks it itself, so does the instruction: W_TX_PAYLOAD answers `Failure(Length)` unless there are 32 bytes (R128, U11). -/
def decodeFrame : Bytes → Decoded
  | [] => .reject .emptyFrame
  | c :: data =>
    match commandOf c with
    | none => .reject (.unknownCommand c)
    | some .rRegister => .instr (decodeRead c data)
    | some .wRegister => .instr (decodeWrite c data)
    | some .rRxPayload => decodeExact 32 .rRxPayload c data
    | some .wTxPayload => .instr (.wTxPayload data)
    | some .flushTx => decodeExact 0 .flushTx c data
    | some .flushRx => decodeExact 0 .flushRx c data
    | some .nop => decodeExact 0 .nop c data

/-- The instruction a request stands for: "a handler reads only the operands its row names" (R98, R237). -/
def decodeRequest (r : Request) : Decoded :=
  match r.op.toNat with
  | 0 => .instr .init
  | 1 => .instr (.configure r.channel r.power)
  | 2 => .instr (.send r.payload)
  | 3 => .instr .startReceive
  | 4 => .instr .receive
  | _ => .reject (.unassignedRequest r.op)

/-- The decoder of a program line. -/
def decode : PortItem → Decoded
  | .request r => decodeRequest r
  | .frame out => decodeFrame out

/-! ## The encoder -/

/-- A request with op code `op` and no operand: the fields its row does not name are 0 or empty (R98). -/
def bareRequest (op : BitVec 3) : Request := { op := op, channel := 0, power := 0, payload := [] }

/-- The frame or request that stands for a well-formed instruction, `d` being DUMMY_BYTE (R91, R95, R98). -/
def encode (d : Byte) : Instr → PortItem
  | .rRegister a => .frame [cmdRead a, d]
  | .rRegisterMulti a n => .frame (cmdRead a :: List.replicate n.toNat d)
  | .wRegister a v => .frame [cmdWrite a, v]
  | .wRegisterMulti a bs => .frame (cmdWrite a :: bs)
  | .rRxPayload => .frame (cmdReadPayload :: List.replicate 32 d)
  | .wTxPayload q => .frame (cmdWritePayload :: q)
  | .flushTx => .frame [cmdFlushTx]
  | .flushRx => .frame [cmdFlushRx]
  | .nop => .frame [cmdNop]
  | .init => .request (bareRequest 0b000)
  | .configure c p => .request { bareRequest 0b001 with channel := c, power := p }
  | .send p => .request { bareRequest 0b010 with payload := p }
  | .startReceive => .request (bareRequest 0b011)
  | .receive => .request (bareRequest 0b100)

/-- The one spelling of an instruction: a multi-byte register access of length 1 gives the frame of the single-byte one
(R97; log 13). -/
def Instr.canon : Instr → Instr
  | .rRegister a => .rRegister a
  | .rRegisterMulti a n => if n = 1 then .rRegister a else .rRegisterMulti a n
  | .wRegister a v => .wRegister a v
  | .wRegisterMulti a bs =>
    match bs with
    | [v] => .wRegister a v
    | _ => .wRegisterMulti a bs
  | .rRxPayload => .rRxPayload
  | .wTxPayload q => .wTxPayload q
  | .flushTx => .flushTx
  | .flushRx => .flushRx
  | .nop => .nop
  | .init => .init
  | .configure c p => .configure c p
  | .send p => .send p
  | .startReceive => .startReceive
  | .receive => .receive

/-! ## Words of the opcode table (log 11) -/

/-- Byte `k` of a table word, the first byte being bits 7..0. -/
def wordByte (w k : Nat) : Byte := BitVec.ofNat 8 (w >>> (8 * k))

/-- Bytes 1 to `n` of a table word: the data phase after its command byte. -/
def wordData (w n : Nat) : Bytes := (List.range n).map fun k => wordByte w (k + 1)

/-- The port item a word of the opcode table stands for, `d` being DUMMY_BYTE. The table gives the requests' three bits
and the commands' eight bits the same numbers 0 to 4: those, and any word of fewer than eight bits, are read at the
command port, every other word on the bus. Bits above `nbits` are 0; a register frame the word gives no data has one
data byte, and the data phase of a read frame is dummy bytes whatever the word (log 11, log 12). -/
def tableItem (d : Byte) (nbits w : Nat) : PortItem :=
  if nbits < 8 ∨ (nbits = 8 ∧ w < 5) then .request (bareRequest (BitVec.ofNat 3 w))
  else
    let c := wordByte w 0
    let given := nbits / 8 - 1
    match commandOf c with
    | some .rRegister => .frame (c :: List.replicate (max 1 given) d)
    | some .wRegister => .frame (c :: wordData w (max 1 given))
    | some .rRxPayload => .frame (c :: List.replicate 32 d)
    | some .wTxPayload => .frame (c :: wordData w 32)
    | _ => .frame (c :: wordData w given)

/-- The instruction the decoder reads from a word of the opcode table (log 11). -/
def decodeTableWord (nbits w : Nat) : Option Instr := (decode (tableItem 0x00 nbits w)).toOption

end Sys2Proof
end

