-- ==== Sys2Proof/Machine/Operands.lean ====
section
/-! DEFINITION. Operand assembly: the register map (spec/10_state.md R30), the wire payload (spec/30_encoding.md R94),
the dummy phase (R95), the power field of RF_SETUP (R96), and the bytes the block forms from channel and power. -/

namespace Sys2Proof

/-- The register's address: the fixed map of R30 and R66. -/
def Reg.addr : Reg → Byte
  | .config => 0x00
  | .enAa => 0x01
  | .enRxaddr => 0x02
  | .setupAw => 0x03
  | .rfCh => 0x05
  | .rfSetup => 0x06
  | .status => 0x07
  | .rxAddrP0 => 0x0A
  | .txAddr => 0x10
  | .rxPwP0 => 0x11

/-- The register's width in bytes (R30). -/
def Reg.width : Reg → Nat
  | .config => 1
  | .enAa => 1
  | .enRxaddr => 1
  | .setupAw => 1
  | .rfCh => 1
  | .rfSetup => 1
  | .status => 1
  | .rxAddrP0 => 5
  | .txAddr => 5
  | .rxPwP0 => 1

/-- Whether a request ever reads the register by an R_REGISTER frame: only RF_SETUP (R30; STATUS is read by NOP, R32). -/
def Reg.blockReads : Reg → Bool
  | .config => false
  | .enAa => false
  | .enRxaddr => false
  | .setupAw => false
  | .rfCh => false
  | .rfSetup => true
  | .status => false
  | .rxAddrP0 => false
  | .txAddr => false
  | .rxPwP0 => false

/-- The ten registers (R30). -/
def allRegs : List Reg :=
  [.config, .enAa, .enRxaddr, .setupAw, .rfCh, .rfSetup, .status, .rxAddrP0, .txAddr, .rxPwP0]

/-- The register at an address, if the address is in the map (R66). -/
def regAt (a : Byte) : Option Reg := allRegs.find? fun r => r.addr == a

namespace Machine

/-- `wire32(p) = take(32, p) ++ rep(32 - min(len(p), 32), 0x00)` (R94). -/
def wire32 (p : Bytes) : Bytes :=
  p.take maxPayload ++ List.replicate (maxPayload - min p.length maxPayload) 0x00

/-- The data phase of a read frame: `n` times DUMMY_BYTE (R95). -/
def dummies (d : Byte) (n : Nat) : Bytes := List.replicate n d

/-- The two power bits of RF_SETUP, bits [2:1] (R33; PRESUMED by the spec from general knowledge, K1; log 16). -/
def powerMask : Byte := 0x06

/-- `powerBits(p) = p << 1` (R96; log 16). Outside 0..3, which no request reaches, the integer is cut to a byte first
(log 15). -/
def powerBits (p : Int) : Byte := BitVec.ofInt 8 p <<< 1

/-- "Clear the two power bits, set the new power pattern" (R96, R231). -/
def setPower (v : Byte) (p : Int) : Byte := (v &&& ~~~powerMask) ||| powerBits p

/-- The RF_SETUP byte of initialize, `RF_SETUP_BASE | powerBits(p)`, a plain write (R161). -/
def initSetup (base : Byte) (p : Int) : Byte := base ||| powerBits p

/-- The channel number as the byte value of RF_CH (R36). Outside 0..125, which no request reaches, the integer is cut to
a byte (log 15). -/
def channelByte (c : Int) : Byte := BitVec.ofInt 8 c

/-- The SETUP_AW value that means 5-byte addresses (R34; PRESUMED by the spec, K2; log 17). -/
def setupAw5 : Byte := 0x03

/-- The pipe-0 bit of EN_AA and EN_RXADDR (R35; PRESUMED by the spec, K3; log 18). -/
def pipe0 : Byte := 0x01

end Machine
end Sys2Proof
end

