-- ==== Sys2Proof/Machine/State.lean ====
section
/-! DEFINITION. The state of the block: the record of spec/10_state.md R20, the open parameters (spec/00_scope.md R7), and
the model's own fields for the block's interfaces and for what is observed of it (R8, R11; log 2, log 3, log 8). The block
has no memory of its own (spec/20_memory.md), so there is no memory here. -/

namespace Sys2Proof.Machine

/-- RadioState (R21). PoweredDown is never held by a run (R24). -/
inductive RadioState where
  | uninitialized | poweredDown | standby | transmitting | listening
deriving DecidableEq, Repr

/-- The 3-bit code of a RadioState (R21, D19). -/
def RadioState.code : RadioState → BitVec 3
  | .uninitialized => 0
  | .poweredDown => 1
  | .standby => 2
  | .transmitting => 3
  | .listening => 4

/-- A control line (R10): chip-enable or chip-select. -/
inductive Line where
  | ce | csn
deriving DecidableEq, Repr

/-- A level a line can be driven to (R10). -/
inductive Level where
  | low | high
deriving DecidableEq, Repr

/-- What is known of a line (R20): nothing before the block first drives it (R40, U9). -/
inductive LineLevel where
  | undriven | low | high
deriving DecidableEq, Repr

/-- The line level a drive leaves. -/
def Level.onLine : Level → LineLevel
  | .low => .low
  | .high => .high

/-- The environment's answer to an exchange (R8, R10, D2). -/
inductive Answer where
  | ok (data : List Byte)
  | fail
deriving DecidableEq, Repr

/-- An event of the trace (R10, R11). -/
inductive Event where
  | line (l : Line) (v : Level)
  | xfer (out : List Byte) (ans : Answer)
  | wait (ms : Nat)
deriving DecidableEq, Repr

/-- The diagnostic reason of a Failure (R99, R271). -/
inductive Reason where
  | transport | length | maxRetries | timeout
deriving DecidableEq, Repr

/-- The 2-bit code of a reason (R99, D19). -/
def Reason.code : Reason → BitVec 2
  | .transport => 0
  | .length => 1
  | .maxRetries => 2
  | .timeout => 3

/-- The result code of a request (R270). -/
inductive ResultCode where
  | ok | validationError | notReady | failure
deriving DecidableEq, Repr

/-- The 2-bit code of a result code (R99, D19). -/
def ResultCode.code : ResultCode → BitVec 2
  | .ok => 0
  | .validationError => 1
  | .notReady => 2
  | .failure => 3

/-- The response of a request (R99); `reason` is there only with a Failure. -/
structure Response where
  code   : ResultCode
  reason : Option Reason
  found  : Bool
  data   : List Byte
deriving DecidableEq, Repr

/-- The reason field as bits: 0 where it is not meaningful (R99). -/
def Response.reasonCode (r : Response) : BitVec 2 := (r.reason.map Reason.code).getD 0

/-- Ok with nothing more. -/
def Response.ok : Response := { code := .ok, reason := none, found := false, data := [] }
/-- ValidationError (R270). -/
def Response.validationError : Response := { code := .validationError, reason := none, found := false, data := [] }
/-- NotReady (R270). -/
def Response.notReady : Response := { code := .notReady, reason := none, found := false, data := [] }
/-- Failure with its reason (R270, R271). -/
def Response.failure (r : Reason) : Response := { code := .failure, reason := some r, found := false, data := [] }
/-- RECEIVE's Ok: `none` is "nothing available" (R192). -/
def Response.received : Option (List Byte) → Response
  | none => Response.ok
  | some d => { code := .ok, reason := none, found := true, data := d }

/-- What is handed over at the end of an instruction: the response of a request, or the result of a RegisterAccess
primitive run on its own (R121 to R129; log 7). -/
inductive Result where
  | response (r : Response)
  | accessOk (data : List Byte)
  | accessFailed (r : Reason)
deriving DecidableEq, Repr

/-- The sequencer, the program counter's counterpart: `step` counts the events the running request has emitted (R28). -/
inductive Seq where
  | idle
  | running (i : Instr) (step : Nat)
deriving DecidableEq, Repr

/-- "This spec writes programs at two levels" (R102), and a program is of one of them: what the requester presents at the
command port, requests and nothing else (R98, R238), or a bus-level program, each frame line given as its bytes (log 7). -/
inductive Program where
  | requests (rs : List Request)
  | bus (lines : List (List Byte))
deriving DecidableEq, Repr

/-- The whole state. -/
@[ext]
structure State where
  radio   : RadioState
  channel : Int
  power   : Int
  txAddr  : Address
  rxAddr  : Address
  ce      : LineLevel
  csn     : LineLevel
  seq     : Seq
  params  : Params
  port    : Program
  answers : List Answer
  draws   : Nat
  trace   : List Event
  results : List Result
deriving DecidableEq, Repr

/-- Construction, the block's only reset (R40, R300), of a block with the open parameters `p`. It emits no event and
drives neither line. The fields that are the model's own start empty (log 6). -/
def State.construct (p : Params) : State :=
  { radio := .uninitialized, channel := (p.defaultChannel.val : Nat), power := (p.defaultPower.val : Nat),
    txAddr := p.defaultAddress, rxAddr := p.defaultAddress, ce := .undriven, csn := .undriven, seq := .idle,
    params := p, port := .requests [], answers := [], draws := 0, trace := [], results := [] }

/-- The machine right after reset: constructed with the open parameters, whose values the spec leaves free (R7, R40;
log 5). -/
def State.reset : State := State.construct Config.params

/-- Why the machine stops. -/
inductive Fault where
  /-- The state stands in the middle of a request: "a model has no step of a second request while `st.seq ≠ Idle`"
  (R70), and this model's steps are whole requests (R28). Raised by `step` alone; no run reaches it. Safe (log 9). -/
  | midRequest
deriving DecidableEq, Repr

/-- Why the machine gives no meaning to what is presented. -/
inductive Refusal where
  /-- An instruction whose meaning is not written yet; raised by no arm of the finished dispatch. Safe. -/
  | notModelled (mnemonic : String)
  /-- A request code 101, 110 or 111: "a model refuses it" (R237). Raised by `step`. Safe. -/
  | unassignedRequest (op : BitVec 3)
  /-- A bus-level line that stands for no call of a primitive, for the decoder's reason: no command byte (R90), a command
  byte outside the seven patterns (R100, U12), or a data phase its command does not have (R91, R101). A length that a
  primitive checks is no such line: it is `Failure(Length)` (U11). Raised by `step`. Safe (log 7). -/
  | notAFrame (e : DecodeError)
  /-- RadioState PoweredDown: "a start state with it is not a launch state" (U14, R24). Raised by `step`; no run reaches
  it. Safe (log 10). -/
  | notLaunchState
deriving DecidableEq, Repr

end Sys2Proof.Machine
end

