-- ==== Sys2Proof/Machine/Ops.lean ====
section
/-! DEFINITION. The primitives every procedure is written with (spec/00_scope.md R10), the propagation of failures
(spec/60_exceptions.md R272), and the two ends of a request: its acceptance and the giving of its response (R238, R275,
R276). The block has no exception to take (R273, R278): `Proc.bind` is its abort and `State.finish` its return. -/

namespace Sys2Proof.Machine

/-- A procedure of the block: run on a state, it returns a result or fails, and leaves a state. What a failing procedure
did stays done (R73). -/
abbrev Proc (α : Type) := State → Except Reason α × State

/-- `return r` (R10). -/
def Proc.ret {α : Type} (a : α) : Proc α := fun s => (.ok a, s)

/-- `return Failure(reason)` (R10). -/
def Proc.fail {α : Type} (r : Reason) : Proc α := fun s => (.error r, s)

/-- `x <- P?` and then the rest: "abort at the first failing step and surface that failure" (R10, R272, R275). -/
def Proc.bind {α β : Type} (p : Proc α) (k : α → Proc β) : Proc β := fun s =>
  match p s with
  | (.ok a, t) => k a t
  | (.error r, t) => (.error r, t)

/-- `P?` for each procedure in turn: the first failure halts the remaining steps (R73, R272). -/
def Proc.seq : List (Proc Unit) → Proc Unit
  | [] => Proc.ret ()
  | p :: ps => Proc.bind p fun _ => Proc.seq ps

/-! ## Events -/

/-- The step pointer "advances by one per event" (R28). -/
def Seq.advance : Seq → Seq
  | .idle => .idle
  | .running i k => .running i (k + 1)

/-- Append an event to the trace (R10, R11) and advance the sequencer (R28). -/
def State.emit (s : State) (e : Event) : State := { s with trace := s.trace ++ [e], seq := s.seq.advance }

/-- Drive a line. -/
def State.drive (s : State) (l : Line) (v : Level) : State :=
  match l with
  | .ce => { s with ce := v.onLine }
  | .csn => { s with csn := v.onLine }

/-- `SetLine(L, v)` (R10). -/
def setLine (l : Line) (v : Level) : Proc Unit := fun s => (.ok (), (s.drive l v).emit (.line l v))

/-- `Wait(ms)` (R10, R312). -/
def wait (ms : Nat) : Proc Unit := fun s => (.ok (), s.emit (.wait ms))

/-! ## The environment (R8; log 3, log 4) -/

/-- The `n`-th exchange's answer of the right length, of free bytes. -/
def freeOk (n : Nat) (out : Bytes) : Answer := .ok ((List.range out.length).map (Config.freeByte n))

/-- The answer where none was laid down: any answer the contract allows (R8, R279, U4). -/
def freeAnswer (canFail : Bool) (n : Nat) (out : Bytes) : Answer :=
  if canFail && Config.freeFails n then .fail else freeOk n out

/-- The answer is Ok and has the length of `out`, as the contract demands (R8, D2). -/
def Answer.fits (out : Bytes) : Answer → Bool
  | .ok data => data.length == out.length
  | .fail => false

/-- The environment's answer to the exchange of `out`: the next one laid down, or a free one. An environment that cannot
fail (R7, R131) gives a free Ok answer where one was laid down that R120 reads as a failure (log 4). -/
def State.answerTo (s : State) (out : Bytes) : Answer :=
  match s.answers with
  | [] => freeAnswer s.params.transportCanFail s.draws out
  | a :: _ => if s.params.transportCanFail || a.fits out then a else freeOk s.draws out

/-- An exchange uses up the answer laid down for it. -/
def State.drawn (s : State) : State := { s with answers := s.answers.tail, draws := s.draws + 1 }

/-- `Exchange(out)` (R10). -/
def exchange (out : Bytes) : Proc Answer := fun s =>
  (.ok (s.answerTo out), s.drawn.emit (.xfer out (s.answerTo out)))

/-! ## Requests -/

/-- The next line of a program, and the program that then is left: "one at a time, in the order the requester presents
them" (R238), and so at the bus level (R68). The level stays. -/
def Program.next? : Program → Option (PortItem × Program)
  | .requests [] => none
  | .requests (r :: rs) => some (.request r, .requests rs)
  | .bus [] => none
  | .bus (out :: lines) => some (.frame out, .bus lines)

/-- The requests of a program: none in a bus-level one. -/
def Program.requestList : Program → List Request
  | .requests rs => rs
  | .bus _ => []

/-- The frame lines of a program: none in a request-level one. -/
def Program.busLines : Program → List Bytes
  | .requests _ => []
  | .bus lines => lines

/-- The program with `item` as its next line, which is a program of the level of `item` (log 11). -/
def Program.push (p : Program) : PortItem → Program
  | .request r => .requests (r :: p.requestList)
  | .frame out => .bus (out :: p.busLines)

/-- An instruction is accepted: it leaves the program, of which `rest` is left, and the sequencer runs it (R28, R238). -/
def State.accept (s : State) (i : Instr) (rest : Program) : State := { s with port := rest, seq := .running i 0 }

/-- The result is handed over and the block is Idle again, whatever the outcome (R28, R238, R275, R276). -/
def State.finish (s : State) (r : Result) : State := { s with results := s.results ++ [r], seq := .idle }

/-- `st.radio <- r`. -/
def State.setRadio (s : State) (r : RadioState) : State := { s with radio := r }

/-- `st.channel <- c; st.power <- p` (R233). -/
def State.setChannelPower (s : State) (c p : Int) : State := { s with channel := c, power := p }

/-- The block is initialized (R23). -/
def State.initialized (s : State) : Bool := s.radio != .uninitialized

/-- Run a request handler and give its response (R238). -/
def serve (h : State → Response × State) (s : State) : State := (h s).2.finish (.response (h s).1)

/-- The result a RegisterAccess primitive hands over when it is run on its own (log 7). -/
def accessResult : Except Reason Bytes → Result
  | .ok data => .accessOk data
  | .error r => .accessFailed r

/-- Run a RegisterAccess primitive on its own and hand over its result (log 7). -/
def runAccess (p : Proc Bytes) (s : State) : State := (p s).2.finish (accessResult (p s).1)

end Sys2Proof.Machine
end

