-- ==== Sys2Proof/Machine/RegisterAccess.lean ====
section
/-! DEFINITION. RegisterAccess, the framing of every bus transaction (spec/40_register_access.md R120 to R131), and the
meanings of the nine bus commands. -/

namespace Sys2Proof.Machine

/-- `RA.FRAME(out)` (R120): CSN low, exactly one exchange, CSN high on every path; a failed exchange, or an answer of
another length, is `Failure(Transport)`. -/
def RA.frame (out : Bytes) : Proc Bytes :=
  Proc.bind (setLine .csn .low) fun _ =>
  Proc.bind (exchange out) fun ans =>
  Proc.bind (setLine .csn .high) fun _ =>
    match ans with
    | .fail => Proc.fail .transport
    | .ok data => if data.length = out.length then Proc.ret data else Proc.fail .transport

/-- `RA.READ(a)` (R121). -/
def RA.read (a : Byte) : Proc Byte := fun s =>
  if 0x1F < a then Proc.fail .length s
  else Proc.bind (RA.frame (cmdRead a :: dummies s.params.dummyByte 1)) (fun ans => Proc.ret (ans.getD 1 0)) s

/-- `RA.WRITE(a, v)` (R122). -/
def RA.write (a v : Byte) : Proc Unit := fun s =>
  if 0x1F < a then Proc.fail .length s
  else Proc.bind (RA.frame [cmdWrite a, v]) (fun _ => Proc.ret ()) s

/-- `RA.READ_MULTI(a, n)` (R123; C5). -/
def RA.readMulti (a : Byte) (n : Int) : Proc Bytes := fun s =>
  if 0x1F < a ∨ n < 1 ∨ 32 < n then Proc.fail .length s
  else Proc.bind (RA.frame (cmdRead a :: dummies s.params.dummyByte n.toNat)) (fun ans => Proc.ret ans.tail) s

/-- `RA.WRITE_MULTI(a, bs)` (R124). -/
def RA.writeMulti (a : Byte) (bs : Bytes) : Proc Unit := fun s =>
  if 0x1F < a ∨ bs.length < 1 ∨ 32 < bs.length then Proc.fail .length s
  else Proc.bind (RA.frame (cmdWrite a :: bs)) (fun _ => Proc.ret ()) s

/-- A frame that is a command byte only (R91, F-C). -/
def RA.command (c : Byte) : Proc Bytes := RA.frame [c]

/-- `RA.FLUSH_TX` (R125). -/
def RA.flushTx : Proc Unit := Proc.bind (RA.command cmdFlushTx) fun _ => Proc.ret ()

/-- `RA.FLUSH_RX` (R126). -/
def RA.flushRx : Proc Unit := Proc.bind (RA.command cmdFlushRx) fun _ => Proc.ret ()

/-- `RA.STATUS` (R127): the whole status byte, `in[0]` of the no-op frame. -/
def RA.status : Proc Byte := Proc.bind (RA.command cmdNop) fun ans => Proc.ret (ans.getD 0 0)

/-- `RA.WRITE_PAYLOAD(q)` (R128). -/
def RA.writePayload (q : Bytes) : Proc Unit := fun s =>
  if q.length ≠ 32 then Proc.fail .length s
  else Proc.bind (RA.frame (cmdWritePayload :: q)) (fun _ => Proc.ret ()) s

/-- `RA.READ_PAYLOAD` (R129). -/
def RA.readPayload : Proc Bytes := fun s =>
  Proc.bind (RA.frame (cmdReadPayload :: dummies s.params.dummyByte 32)) (fun ans => Proc.ret ans.tail) s

/-- The pseudocode's `MemRead(addr, n)` (R10). -/
def RA.memRead (a : Byte) (n : Int) : Proc Bytes :=
  if n = 1 then Proc.bind (RA.read a) fun v => Proc.ret [v] else RA.readMulti a n

/-- The pseudocode's `MemWrite(addr, n, v)` with `n = len(v)` (R10). -/
def RA.memWrite (a : Byte) (v : Bytes) : Proc Unit :=
  match v with
  | [b] => RA.write a b
  | _ => RA.writeMulti a v

/-! ## Meanings -/

/-- R_REGISTER (R121). -/
def execRRegister (a : Byte) (s : State) : Host.Outcome State Fault Refusal :=
  .next (runAccess (Proc.bind (RA.read a) fun v => Proc.ret [v]) s)

/-- R_REGISTER_MULTI (R123). -/
def execRRegisterMulti (a : Byte) (n : Int) (s : State) : Host.Outcome State Fault Refusal :=
  .next (runAccess (RA.readMulti a n) s)

/-- W_REGISTER (R122). -/
def execWRegister (a v : Byte) (s : State) : Host.Outcome State Fault Refusal :=
  .next (runAccess (Proc.bind (RA.write a v) fun _ => Proc.ret []) s)

/-- W_REGISTER_MULTI (R124). -/
def execWRegisterMulti (a : Byte) (bs : Bytes) (s : State) : Host.Outcome State Fault Refusal :=
  .next (runAccess (Proc.bind (RA.writeMulti a bs) fun _ => Proc.ret []) s)

/-- R_RX_PAYLOAD (R129). -/
def execRRxPayload (s : State) : Host.Outcome State Fault Refusal := .next (runAccess RA.readPayload s)

/-- W_TX_PAYLOAD (R128). -/
def execWTxPayload (q : Bytes) (s : State) : Host.Outcome State Fault Refusal :=
  .next (runAccess (Proc.bind (RA.writePayload q) fun _ => Proc.ret []) s)

/-- FLUSH_TX (R125). -/
def execFlushTx (s : State) : Host.Outcome State Fault Refusal :=
  .next (runAccess (Proc.bind RA.flushTx fun _ => Proc.ret []) s)

/-- FLUSH_RX (R126). -/
def execFlushRx (s : State) : Host.Outcome State Fault Refusal :=
  .next (runAccess (Proc.bind RA.flushRx fun _ => Proc.ret []) s)

/-- NOP (R127). -/
def execNop (s : State) : Host.Outcome State Fault Refusal :=
  .next (runAccess (Proc.bind RA.status fun v => Proc.ret [v]) s)

end Sys2Proof.Machine
end

