-- ==== Sys2Proof/Machine/ModeController.lean ====
section
/-! DEFINITION. ModeController: initialize, enter transmit, enter receive (spec/41_mode_controller.md R160 to R165). -/

namespace Sys2Proof.Machine

/-- `MC.INITIALIZE` (R161): the line setup, the startup wait and twelve frames, aborted at the first failing one. It does
not write `st.radio`. -/
def MC.initialize : Proc Unit := fun s =>
  Proc.seq
    [setLine .ce .low,
     setLine .csn .high,
     wait startupMs,
     RA.write Reg.config.addr configInit,
     RA.write Reg.setupAw.addr setupAw5,
     RA.write Reg.rfCh.addr (channelByte s.channel),
     RA.write Reg.rfSetup.addr (initSetup s.params.rfSetupBase s.power),
     RA.writeMulti Reg.txAddr.addr s.txAddr.toList,
     RA.writeMulti Reg.rxAddrP0.addr s.rxAddr.toList,
     RA.write Reg.enAa.addr pipe0,
     RA.write Reg.enRxaddr.addr pipe0,
     RA.write Reg.rxPwP0.addr rxPayloadWidth,
     RA.write Reg.status.addr allFlags,
     RA.flushTx,
     RA.flushRx] s

/-- The write of `st.radio` that ends a mode entry (R162, R163). -/
def enterRadio (r : RadioState) : Proc Unit := fun s => (.ok (), s.setRadio r)

/-- `MC.ENTER_TRANSMIT` (R162). -/
def MC.enterTransmit : Proc Unit :=
  Proc.seq
    [setLine .ce .low,
     RA.write Reg.config.addr configTransmit,
     wait settleMs,
     enterRadio .transmitting]

/-- `MC.ENTER_RECEIVE` (R163). -/
def MC.enterReceive : Proc Unit :=
  Proc.seq
    [setLine .ce .low,
     RA.write Reg.config.addr configReceive,
     wait settleMs,
     setLine .ce .high,
     enterRadio .listening]

end Sys2Proof.Machine
end

