-- ==== Sys2Proof/Machine/RadioConfig.lean ====
section
/-! DEFINITION. RadioConfig: validation and application of channel and power (spec/43_config_and_driver.md R230, R231). -/

namespace Sys2Proof.Machine

/-- `RC.VALIDATE(c, p)` (R230): false is ValidationError. Negative operands are invalid (D27). -/
def RC.validate (c p : Int) : Bool :=
  decide (0 ≤ c) && decide (c ≤ channelMax) && decide (0 ≤ p) && decide (p ≤ powerMax)

/-- `RC.APPLY(c, p)` (R231): write RF_CH, then read RF_SETUP and write it back with the new power bits. -/
def RC.apply (c p : Int) : Proc Unit :=
  Proc.bind (RA.write Reg.rfCh.addr (channelByte c)) fun _ =>
  Proc.bind (RA.read Reg.rfSetup.addr) fun v =>
    RA.write Reg.rfSetup.addr (setPower v p)

end Sys2Proof.Machine
end

