-- ==== Sys2Proof/Machine/Transceiver.lean ====
section
/-! DEFINITION. PacketTransceiver: transmit with its bounded completion poll, and receive
(spec/42_transceiver.md R190 to R194). -/

namespace Sys2Proof.Machine

/-- A transmit poll that saw TX_DS or MAX_RT in the status `v`: clear the flags seen, and succeed if and only if TX_DS
was among them (R190, R191). -/
def PT.pollEnd (v : Byte) : Proc Unit :=
  Proc.bind (RA.write Reg.status.addr (txFlags v)) fun _ =>
    if flagSet v txDs then Proc.ret () else Proc.fail .maxRetries

/-- The completion poll with `n` polls left (R190): the wait comes only after a poll that saw neither flag (D14). -/
def PT.poll : Nat → Proc Unit
  | 0 => Proc.fail .timeout
  | n + 1 =>
    Proc.bind RA.status fun v =>
      if txFlags v != 0 then PT.pollEnd v
      else Proc.bind (wait pollIntervalMs) fun _ => PT.poll n

/-- `PT.TRANSMIT(p)` (R190). -/
def PT.transmit (p : Bytes) : Proc Unit :=
  Proc.bind (Proc.seq
    [RA.flushTx,
     RA.writePayload (wire32 p),
     setLine .ce .high,
     wait cePulseMs,
     setLine .ce .low]) fun _ => PT.poll pollLimit

/-- `PT.RECEIVE` (R192): `none` is "nothing available". RX_DR is cleared before the payload is read. -/
def PT.receive : Proc (Option Bytes) :=
  Proc.bind RA.status fun v =>
    if flagSet v rxDr then
      Proc.bind (RA.write Reg.status.addr rxDr) fun _ =>
      Proc.bind RA.readPayload fun data => Proc.ret (some data)
    else Proc.ret none

end Sys2Proof.Machine
end

