-- ==== Sys2Proof/Machine/Driver.lean ====
section
/-! DEFINITION. The Driver: the handlers of the five requests (spec/43_config_and_driver.md R232 to R236) and the meanings
of the five request instructions. -/

namespace Sys2Proof.Machine

/-- The response of a procedure that returns nothing (R272, R277). -/
def respond : Except Reason Unit → Response
  | .ok _ => .ok
  | .error r => .failure r

/-- `DRV.INIT` (R232): Standby on success, Uninitialized on any failure (D16). -/
def DRV.init (s : State) : Response × State :=
  match MC.initialize s with
  | (.ok _, t) => (.ok, t.setRadio .standby)
  | (.error r, t) => (.failure r, t.setRadio .uninitialized)

/-- `DRV.CONFIGURE(c, p)` (R233). -/
def DRV.configure (c p : Int) (s : State) : Response × State :=
  if RC.validate c p then
    if s.initialized then
      match RC.apply c p s with
      | (.ok _, t) => (.ok, t.setChannelPower c p)
      | (.error r, t) => (.failure r, t)
    else (.ok, s.setChannelPower c p)
  else (.validationError, s)

/-- "NotReady if not initialized; else": the guard of the other three requests (R234 to R236). -/
def DRV.guarded (h : State → Response × State) (s : State) : Response × State :=
  if s.initialized then h s else (.notReady, s)

/-- `DRV.SEND(p)` (R234). -/
def DRV.send (p : Bytes) : State → Response × State := DRV.guarded fun s =>
  match Proc.bind MC.enterTransmit (fun _ => PT.transmit p) s with
  | (r, t) => (respond r, t)

/-- `DRV.START_RECEIVE` (R235). -/
def DRV.startReceive : State → Response × State := DRV.guarded fun s =>
  match MC.enterReceive s with
  | (r, t) => (respond r, t)

/-- `DRV.RECEIVE` (R236). -/
def DRV.receive : State → Response × State := DRV.guarded fun s =>
  match PT.receive s with
  | (.ok d, t) => (.received d, t)
  | (.error r, t) => (.failure r, t)

/-! ## Meanings -/

/-- INIT (R232). -/
def execInit (s : State) : Host.Outcome State Fault Refusal := .next (serve DRV.init s)

/-- CONFIGURE (R233). -/
def execConfigure (c p : Int) (s : State) : Host.Outcome State Fault Refusal := .next (serve (DRV.configure c p) s)

/-- SEND (R234). -/
def execSend (p : Bytes) (s : State) : Host.Outcome State Fault Refusal := .next (serve (DRV.send p) s)

/-- START_RECEIVE (R235). -/
def execStartReceive (s : State) : Host.Outcome State Fault Refusal := .next (serve DRV.startReceive s)

/-- RECEIVE (R236). -/
def execReceive (s : State) : Host.Outcome State Fault Refusal := .next (serve DRV.receive s)

end Sys2Proof.Machine
end

