-- ==== Sys2Proof/Machine/Dispatch.lean ====
section
/-! DEFINITION. One arm per instruction of spec/opcode_table.json, each one direct call of its meaning. -/

namespace Sys2Proof.Machine

/-- What an instruction does. -/
def exec (i : Instr) (s : State) : Host.Outcome State Fault Refusal :=
  match i with
  | .rRegister a => Sys2Proof.Machine.execRRegister a s
  | .rRegisterMulti a n => Sys2Proof.Machine.execRRegisterMulti a n s
  | .wRegister a v => Sys2Proof.Machine.execWRegister a v s
  | .wRegisterMulti a bs => Sys2Proof.Machine.execWRegisterMulti a bs s
  | .rRxPayload => Sys2Proof.Machine.execRRxPayload s
  | .wTxPayload q => Sys2Proof.Machine.execWTxPayload q s
  | .flushTx => Sys2Proof.Machine.execFlushTx s
  | .flushRx => Sys2Proof.Machine.execFlushRx s
  | .nop => Sys2Proof.Machine.execNop s
  | .init => Sys2Proof.Machine.execInit s
  | .configure c p => Sys2Proof.Machine.execConfigure c p s
  | .send p => Sys2Proof.Machine.execSend p s
  | .startReceive => Sys2Proof.Machine.execStartReceive s
  | .receive => Sys2Proof.Machine.execReceive s

end Sys2Proof.Machine
end

