-- ==== Sys2Proof/Machine/Step.lean ====
section
/-! DEFINITION. One step of the block: it serves the next line of the program (spec/43_config_and_driver.md R238).
A request is one step, as spec/10_state.md R28 allows. -/

namespace Sys2Proof.Machine

/-- The refusal of a line that stands for no instruction (R100, R237). -/
def refusalOf : DecodeError → Refusal
  | .unassignedRequest op => .unassignedRequest op
  | .emptyFrame => .notAFrame .emptyFrame
  | .unknownCommand c => .notAFrame (.unknownCommand c)
  | .badFrameLength c n => .notAFrame (.badFrameLength c n)

/-- Serve the next line of the program. No line left: nothing happens, since "the block never starts a request by itself"
(R238; log 8). A line that stands for no instruction is refused, and nothing changes (R237). At the command port every line
is a request, so the procedures are reached "only from the request handlers" (R103). DESIGN CHOICE: a frame line of a
bus-level program runs at once, before any startup wait, and the next one with no settle wait (R303, R304; log 7). -/
def State.servePort (s : State) : Host.Outcome State Fault Refusal :=
  match s.port.next? with
  | none => .next s
  | some (item, rest) =>
    match decode item with
    | .reject e => .refused (refusalOf e)
    | .instr i => exec i (s.accept i rest)

/-- One step. A request is accepted only when the sequencer is Idle (R70, R238; log 9), and a PoweredDown state is no
launch state (U14; log 10). -/
def step (s : State) : Host.Outcome State Fault Refusal :=
  match s.seq with
  | .running _ _ => .fault .midRequest
  | .idle => if s.radio = .poweredDown then .refused .notLaunchState else s.servePort

/-- `s` with the line of an opcode-table word next in its program, the block Idle. The program takes the level of that
line, since one program has one level (R102; log 11). -/
def State.withFetchWord (s : State) (nbits w : Nat) : State :=
  { s with seq := .idle, port := s.port.push (tableItem s.params.dummyByte nbits w) }

end Sys2Proof.Machine
end

