-- ==== Sys2Proof/Safety.lean ====
section
/-! DEFINITION. The terms claims are made in: the invariant of request boundaries (spec/10_state.md R24 to R26, R39,
spec/41_mode_controller.md R164), the frames of the block (spec/30_encoding.md R91, R100), the checkers of a trace (R100,
R130, R303 to R307, R310; U1, U12), and sums of waits (R312, R313). -/

namespace Sys2Proof.Machine

/-! ## The invariant of request boundaries -/

/-- "Both hold a valid value at all times" (R25). -/
def State.validFields (s : State) : Prop :=
  0 ≤ s.channel ∧ s.channel ≤ 125 ∧ 0 ≤ s.power ∧ s.power ≤ 3

/-- The two addresses are the construction's, and so equal (R26). -/
def State.addressesKept (s : State) : Prop :=
  s.txAddr = s.params.defaultAddress ∧ s.rxAddr = s.params.defaultAddress

/-- No transaction is open: `st.csn ∈ {Undriven, High}` (R39a). -/
def State.busReleased (s : State) : Prop := s.csn ≠ .low

/-- CE is High only while listening, and the block has driven CE and CSN once it is initialized (R161, R164). -/
def State.ceFollowsMode (s : State) : Prop :=
  (s.ce = .high → s.radio = .listening) ∧
  (s.radio ≠ .uninitialized → s.ce ≠ .undriven ∧ s.csn = .high)

/-- The program is a requester's: the internal procedures can be "reached only from the request handlers" (R103; log 7). -/
def State.atCommandPort (s : State) : Prop := ∃ rs, s.port = .requests rs

/-- What holds whenever no instruction runs, with a program of either level. -/
structure State.Settled (s : State) : Prop where
  idle      : s.seq = .idle
  launch    : s.radio ≠ .poweredDown
  fields    : s.validFields
  addresses : s.addressesKept
  released  : s.busReleased
  ce        : s.ceFollowsMode

/-- What holds of the block between requests: it is settled, and driven through the command port (R103, R238). -/
structure State.Inv (s : State) : Prop extends s.Settled where
  requester : s.atCommandPort

/-! ## Frames (R90, R91) -/

/-- The three events of a frame, with its answer (R120). -/
def frameEvents (out : Bytes) (a : Answer) : List Event :=
  [.line .csn .low, .xfer out a, .line .csn .high]

/-- The events of frames answered one by one. -/
def framesEvents : List Bytes → List Answer → List Event
  | out :: outs, a :: as => frameEvents out a ++ framesEvents outs as
  | _, _ => []

/-- The bytes a frame answers with, if it succeeds: the answer is Ok and has the frame's length (R120). -/
def frameReply (out : Bytes) : Answer → Option Bytes
  | .ok data => if data.length = out.length then some data else none
  | .fail => none

/-- The state after the frame of `out`, whatever its answer: CSN released High, one answer used up, three events more
(R120). -/
def State.afterFrame (s : State) (out : Bytes) : State :=
  { s with
    csn := .high
    answers := s.answers.tail
    draws := s.draws + 1
    trace := s.trace ++ frameEvents out (s.answerTo out)
    seq := s.seq.advance.advance.advance }

/-- The events of transmit polls that saw neither flag, each status followed by its wait (R190). -/
def pollEvents (statuses : List Byte) : List Event :=
  statuses.flatMap fun v => frameEvents [0xFF] (.ok [v]) ++ [.wait 1]

/-- The answers to polls that read these statuses. -/
def pollAnswers (statuses : List Byte) : List Answer := statuses.map fun v => .ok [v]

/-- Every one of these statuses has neither TX_DS nor MAX_RT set (R191). -/
def Unflagged (statuses : List Byte) : Prop := ∀ v ∈ statuses, v &&& 0x30 = 0

/-- An answer with which the frame of `out` succeeds (R120): Ok, of the frame's length. -/
def Answer.serves (a : Answer) (out : Bytes) : Prop := ∃ data, a = .ok data ∧ data.length = out.length

/-- An answer with which the frame of `out` fails (R120), where the transport can fail: `Fail`, or Ok of another
length. -/
def Answer.breaks (a : Answer) (p : Params) (out : Bytes) : Prop :=
  p.transportCanFail = true ∧ (a = .fail ∨ ∃ data, a = .ok data ∧ data.length ≠ out.length)

/-- The twelve frames of MC.INITIALIZE, as the table of R161 lists them. -/
def initFrames (s : State) : List Bytes :=
  [[0x20, 0x08],
   [0x23, 0x03],
   [0x25, BitVec.ofInt 8 s.channel],
   [0x26, s.params.rfSetupBase ||| powerBits s.power],
   0x30 :: s.txAddr.toList,
   0x2A :: s.rxAddr.toList,
   [0x21, 0x01],
   [0x22, 0x01],
   [0x31, 0x20],
   [0x27, 0x70],
   [0xE1],
   [0xE2]]

/-- The three events before INIT's first frame (R161). -/
def initSetupEvents : List Event := [.line .ce .low, .line .csn .high, .wait 100]

/-! ## Checkers of a trace -/

/-- What a frame is, for the block (R91, R100): a register of the map at its width, or a payload or command frame. -/
inductive FrameKind where
  | regRead (r : Reg)
  | regWrite (r : Reg) (data : List Byte)
  | payloadRead
  | payloadWrite (q : List Byte)
  | flushTx
  | flushRx
  | statusRead
deriving DecidableEq, Repr

/-- The four spaces the block reaches (R60). -/
inductive Space where
  | chipRegister (r : Reg) | txFifo | rxFifo | status
deriving DecidableEq, Repr

/-- The space a frame reaches (R60). -/
def FrameKind.space : FrameKind → Space
  | .regRead r => .chipRegister r
  | .regWrite r _ => .chipRegister r
  | .payloadRead => .rxFifo
  | .payloadWrite _ => .txFifo
  | .flushTx => .txFifo
  | .flushRx => .rxFifo
  | .statusRead => .status

/-- The kind of a frame the block emits for a request, `d` being DUMMY_BYTE; none for any other frame (R30, R91, R100):
a register command reaches one of the ten registers of the map, at its width, and reads only RF_SETUP. -/
def frameKind (d : Byte) : Bytes → Option FrameKind
  | [] => none
  | c :: data =>
    match commandOf c, regAt (addrField c) with
    | some .rRegister, some r =>
      if r.blockReads && data == dummies d r.width then some (.regRead r) else none
    | some .wRegister, some r => if data.length = r.width then some (.regWrite r data) else none
    | some .rRxPayload, _ => if data == dummies d 32 then some .payloadRead else none
    | some .wTxPayload, _ => if data.length = 32 then some (.payloadWrite data) else none
    | some .flushTx, _ => if data == [] then some .flushTx else none
    | some .flushRx, _ => if data == [] then some .flushRx else none
    | some .nop, _ => if data == [] then some .statusRead else none
    | _, _ => none

/-- The event is no exchange, or its frame is one of the block's. -/
def Event.known (d : Byte) : Event → Bool
  | .line _ _ => true
  | .xfer out _ => (frameKind d out).isSome
  | .wait _ => true

/-- Where a trace stands with respect to the CSN bracket (R120, R130). -/
inductive BusPhase where
  | released | selected | exchanged | broken
deriving DecidableEq, Repr

/-- The CSN bracket: CSN low, exactly one exchange, CSN high, and no CE event or wait inside (R130, R307). Outside a
bracket CSN may be driven High, its idle level, which INIT does once (R164; log 21). -/
def BusPhase.next : BusPhase → Event → BusPhase
  | .released, .line .csn .low => .selected
  | .released, .line .csn .high => .released
  | .released, .line .ce _ => .released
  | .released, .wait _ => .released
  | .selected, .xfer _ _ => .exchanged
  | .exchanged, .line .csn .high => .released
  | _, _ => .broken

/-- The trace is made of whole CSN brackets and of line and wait events between them (R130, R307). -/
def bracketed (es : List Event) : Bool := es.foldl BusPhase.next .released == .released

/-- The exchange is a status poll, the NOP frame (R127). -/
def Event.isPoll : Event → Bool
  | .line _ _ => false
  | .wait _ => false
  | .xfer out _ => out == [0xFF]

/-- The next event is a wait of at least `ms` (R312). -/
def waitsNext (ms : Nat) : List Event → Bool
  | [] => false
  | .wait t :: _ => decide (ms ≤ t)
  | .line _ _ :: _ => false
  | .xfer _ _ :: _ => false

/-- The mandatory waits at the head of a request's trace (R165, R303 to R306): 100 ms after INIT's line setup, 2 ms after
a CONFIG write that sets PWR_UP and was answered, 1 ms after CE goes High to send (CE High is START_RECEIVE's last event), a
poll's wait of 1 ms, and no two status polls without it between them. -/
def waitsKeptHere : List Event → Bool
  | .line .ce .low :: .line .csn .high :: rest => waitsNext startupMs rest
  | .xfer [0x20, v] (.ok [_, _]) :: .line .csn .high :: rest => !flagSet v pwrUp || waitsNext settleMs rest
  | .line .ce .high :: rest => rest.isEmpty || waitsNext cePulseMs rest
  | .xfer [0xFF] _ :: .line .csn .high :: .wait t :: _ => decide (pollIntervalMs ≤ t)
  | .xfer [0xFF] _ :: .line .csn .high :: .line .csn .low :: .xfer [0xFF] _ :: _ => false
  | _ => true

/-- The mandatory waits of one request's trace: a trace that shortens one is no trace of the block (R310; U1). -/
def waitsKept : List Event → Bool
  | [] => true
  | e :: rest => waitsKeptHere (e :: rest) && waitsKept rest

/-- A frame that only INIT emits (R161): CONFIG with PWR_UP clear, the address width, the two addresses, the pipe-0
settings, the clear of all three flags, and the RX flush. -/
def initOnly : Bytes → Bool
  | [0x20, v] => !flagSet v pwrUp
  | [0x27, v] => v == 0x70
  | c :: _ => [0x23, 0x30, 0x2A, 0x21, 0x22, 0x31, 0xE2].contains c
  | [] => false

/-- The event is no exchange, or its frame is not one of INIT's own. -/
def Event.notInits : Event → Bool
  | .line _ _ => true
  | .wait _ => true
  | .xfer out _ => !initOnly out

/-- Startup (R303): a trace with a frame of INIT's begins with the line setup and the startup wait, so that "no frame of
INIT comes before it". -/
def startupKept (es : List Event) : Bool :=
  es.all Event.notInits ||
    match es with
    | .line .ce .low :: .line .csn .high :: .wait t :: _ => decide (startupMs ≤ t)
    | _ => false

/-- What any trace the block emits for one request meets, whatever the state and the request, `d` being DUMMY_BYTE: frames
of the block only (R100), whole brackets (R307), the waits (R303 to R306), and at most 1000 polls (R306). -/
def traceOk (d : Byte) (es : List Event) : Bool :=
  es.all (Event.known d) && bracketed es && waitsKept es && startupKept es && decide (es.countP Event.isPoll ≤ pollLimit)

/-! ## The trace of a request, exactly -/

/-- The answers the exchanges of a trace had, in order. -/
def answersOf : List Event → List Answer
  | [] => []
  | .xfer _ a :: es => a :: answersOf es
  | .line _ _ :: es => answersOf es
  | .wait _ :: es => answersOf es

/-- An observed event that stands for an emitted one: the same, or a wait of at least its duration (R165, R312). -/
def Event.standsFor : Event → Event → Bool
  | .wait t, .wait ms => decide (ms ≤ t)
  | seen, e => seen == e

/-- Event by event. -/
def tracesStandFor : List Event → List Event → Bool
  | [], [] => true
  | f :: seen, e :: es => f.standsFor e && tracesStandFor seen es
  | _, _ => false

/-- The observed trace is one of `i` run from `s`, exactly: with the answers it shows, the block emits its lines and frames
and no wait longer than it shows. "A run that shortens one is not a run of this block" (R165, R310; U1). -/
def State.emits (s : State) (i : Instr) (seen : List Event) : Bool :=
  match exec i { s with trace := [], answers := answersOf seen } with
  | .next t => tracesStandFor seen t.trace
  | .fault _ => false
  | .refused _ => false

/-- The sum of the waits of a trace: a lower bound on the time it takes, in milliseconds (R312, R313). -/
def waitSum : List Event → Nat
  | [] => 0
  | .wait ms :: rest => ms + waitSum rest
  | .line _ _ :: rest => waitSum rest
  | .xfer _ _ :: rest => waitSum rest

/-- The event is an exchange. -/
def Event.isXfer : Event → Bool
  | .line _ _ => false
  | .wait _ => false
  | .xfer _ _ => true

/-- An exchange that failed: answered `Fail`, or with another length (R120). -/
def Event.failed : Event → Bool
  | .line _ _ => false
  | .wait _ => false
  | .xfer _ .fail => true
  | .xfer out (.ok data) => data.length != out.length

/-! ## Runs of requests -/

/-- The most events a request emits (R239), and the three of the one frame of a bus command (R120). For SEND R239 says
5 + 4009, the length of a timeout, but the text of R190 gives 5 + 4011 for a flag first seen at the 1000th poll (log 22). -/
def eventBound : Instr → Nat
  | .init => 39
  | .configure _ _ => 9
  | .send _ => 5 + 4011
  | .startReceive => 6
  | .receive => 9
  | .rRegister _ => 3
  | .rRegisterMulti _ _ => 3
  | .wRegister _ _ => 3
  | .wRegisterMulti _ _ => 3
  | .rRxPayload => 3
  | .wTxPayload _ => 3
  | .flushTx => 3
  | .flushRx => 3
  | .nop => 3

/-- From `s` the machine emitted the events `es`, handed over `r` and reached `t`: the triple of R11. -/
structure Did (s : State) (es : List Event) (r : Result) (t : State) : Prop where
  trace   : t.trace = s.trace ++ es
  results : t.results = s.results ++ [r]

end Sys2Proof.Machine
end

