-- ==== Sys2Proof/WellFormed.lean ====
section
/-! DEFINITION. Which instructions the encoding admits (spec/30_encoding.md R91, R93): register addresses of five bits,
data phases of 1 to 32 bytes, payloads of exactly 32. An ill-formed bus command still has a meaning: it answers
`Failure(Length)` with no event (R121 to R124, R128). Every request is well-formed: CONFIGURE's range check is a
run-time outcome (R230), not a matter of encoding. -/

namespace Sys2Proof

/-- "The address must satisfy `0 ≤ a ≤ 0x1F`" (R93). -/
def addrOk (a : Byte) : Bool := decide (a ≤ 0x1F)

/-- A register data phase moves 1 to 32 bytes (R63, R91). -/
def dataLenOk (n : Int) : Bool := decide (1 ≤ n) && decide (n ≤ 32)

/-- A payload frame moves exactly 32 data bytes (R63, R91). -/
def payloadLenOk (n : Nat) : Bool := n == 32

/-- The instruction has an encoding (R91). -/
def Instr.wellFormed : Instr → Bool
  | .rRegister a => addrOk a
  | .rRegisterMulti a n => addrOk a && dataLenOk n
  | .wRegister a _ => addrOk a
  | .wRegisterMulti a bs => addrOk a && dataLenOk bs.length
  | .rRxPayload => true
  | .wTxPayload q => payloadLenOk q.length
  | .flushTx => true
  | .flushRx => true
  | .nop => true
  | .init => true
  | .configure _ _ => true
  | .send _ => true
  | .startReceive => true
  | .receive => true

end Sys2Proof
end

