-- ==== Sys2Proof/Certificates/Slice0/Obligations.lean ====
section
/-! DEFINITION. The statements for the provers, in the terms of Safety.lean. Where a statement rests on a decision the
spec marks as its own (D<n>, K<n>) or on an entry of the assumption log, its docstring says so. -/

open Sys2Proof Sys2Proof.Machine

/-! ## Encoding -/

/-- Words written out from the opcode map (R97) and the request codes (R98) decode to the instructions they stand for.
The request codes are the spec's own (D19). That the read frame with the data phase 1, 2, 3, 4, 5 is read as one, although
its bytes are no DUMMY_BYTE (R95), is the model's choice (log 12). -/
def Obligations.WrittenOutWordsDecode : Prop :=
  decode (.frame [0x06, 0xAB]) = .instr (.rRegister 0x06) ∧
  decode (.frame [0x10, 1, 2, 3, 4, 5]) = .instr (.rRegisterMulti 0x10 5) ∧
  decode (.frame [0x25, 0x4C]) = .instr (.wRegister 0x05 0x4C) ∧
  decode (.frame [0x30, 1, 2, 3, 4, 5]) = .instr (.wRegisterMulti 0x10 [1, 2, 3, 4, 5]) ∧
  decode (.frame (0x61 :: List.replicate 32 7)) = .instr .rRxPayload ∧
  decode (.frame (0xA0 :: List.replicate 32 9)) = .instr (.wTxPayload (List.replicate 32 9)) ∧
  decode (.frame [0xE1]) = .instr .flushTx ∧
  decode (.frame [0xE2]) = .instr .flushRx ∧
  decode (.frame [0xFF]) = .instr .nop ∧
  decode (.request ⟨0b000, 9, 9, [9]⟩) = .instr .init ∧
  decode (.request ⟨0b001, -7, 200, [9]⟩) = .instr (.configure (-7) 200) ∧
  decode (.request ⟨0b010, 9, 9, [1, 2]⟩) = .instr (.send [1, 2]) ∧
  decode (.request ⟨0b011, 9, 9, [9]⟩) = .instr .startReceive ∧
  decode (.request ⟨0b100, 9, 9, [9]⟩) = .instr .receive

/-- Decoding the encoding of a well-formed instruction gives the instruction back, in its one spelling: a multi-byte
access of length 1 has the frame of the single-byte one (R97; log 13). It holds whatever DUMMY_BYTE is. -/
def Obligations.DecodeOfEncodeIsTheInstruction : Prop :=
  ∀ (d : Byte) (i : Instr), i.wellFormed = true → decode (encode d i) = .instr i.canon

/-- What decodes is in its one spelling, a data phase of one byte being the single-byte access (log 13), and encodes to what
was decoded: the same request code and the operands its row reads, or the same frame, where a read frame's data phase is
filled with DUMMY_BYTE (log 12). A frame's instruction is
ill-formed exactly where the data phase has a length its primitive rejects (D5). -/
def Obligations.EncodeOfDecodeIsTheItem : Prop :=
  (∀ (d : Byte) (out : Bytes) (i : Instr), decode (.frame out) = .instr i →
    i.canon = i ∧ i.isRequest = false ∧
    (i.readsData = false → encode d i = .frame out) ∧
    (i.readsData = true → ∃ c data, out = c :: data ∧ encode d i = .frame (c :: List.replicate data.length d)) ∧
    ∀ c data, out = c :: data →
      (i.wellFormed = false ↔
        (c.toNat < 0x40 ∧ (data.length = 0 ∨ 32 < data.length)) ∨ (c = 0xA0 ∧ data.length ≠ 32))) ∧
  (∀ (d : Byte) (r : Request) (i : Instr), decode (.request r) = .instr i →
    i.isRequest = true ∧
    ∃ r', encode d i = .request r' ∧ r'.op = r.op ∧
      (r.op = 0b001 → r'.channel = r.channel ∧ r'.power = r.power) ∧ (r.op = 0b010 → r'.payload = r.payload))

/-- No command byte is two commands, and a command byte is a command exactly when it lies in none of the four unused
ranges of R100. -/
def Obligations.CommandBytesAreUnambiguous : Prop :=
  (∀ (c : Byte) (r r' : CommandRow), r ∈ commandRows → r' ∈ commandRows → r.hits c = true → r'.hits c = true → r = r') ∧
  (∀ c : Byte, commandOf c = none ↔
    (0x40 ≤ c ∧ c ≤ 0x60) ∨ (0x62 ≤ c ∧ c ≤ 0x9F) ∨ (0xA1 ≤ c ∧ c ≤ 0xE0) ∨ (0xE3 ≤ c ∧ c ≤ 0xFE))

/-- "The fixed address map": each of the ten registers at its address, no two at one, and no other address of the 5-bit
space holds a register (R66). -/
def Obligations.RegisterMapIsFixed : Prop :=
  Reg.config.addr = 0x00 ∧ Reg.enAa.addr = 0x01 ∧ Reg.enRxaddr.addr = 0x02 ∧ Reg.setupAw.addr = 0x03 ∧
  Reg.rfCh.addr = 0x05 ∧ Reg.rfSetup.addr = 0x06 ∧ Reg.status.addr = 0x07 ∧ Reg.rxAddrP0.addr = 0x0A ∧
  Reg.txAddr.addr = 0x10 ∧ Reg.rxPwP0.addr = 0x11 ∧
  (∀ (a : Byte) (r : Reg), regAt a = some r ↔ r.addr = a) ∧
  (∀ a : Byte, a ≤ 0x1F → (regAt a = none ↔
    a = 0x04 ∨ a = 0x08 ∨ a = 0x09 ∨ (0x0B ≤ a ∧ a ≤ 0x0F) ∨ (0x12 ≤ a)))

/-- The wire payload is the first 32 bytes of the payload, zero-padded to exactly 32 (R94). -/
def Obligations.WirePayloadIsThirtyTwoBytes : Prop :=
  ∀ p : Bytes, (wire32 p).length = 32 ∧ (wire32 p).take (min p.length 32) = p.take 32 ∧
    ∀ b ∈ (wire32 p).drop (min p.length 32), b = 0x00

/-- The read-modify-write of RF_SETUP leaves every bit outside the two power bits as read, and puts `p` into them (R96,
R231). Which bits those are the spec takes from general knowledge (K1; log 16). -/
def Obligations.PowerWriteKeepsOtherBits : Prop :=
  ∀ (v : Byte) (p : Int), 0 ≤ p → p ≤ 3 →
    (setPower v p &&& 0xF9 = v &&& 0xF9) ∧ ((setPower v p).toNat / 2 % 4 : Nat) = p.toNat

/-! ## Construction, and the step -/

/-- After construction every field has the value of the table of R40: no event, no line driven, the open parameters in
channel, power and both addresses. -/
def Obligations.ConstructionLeavesTheTablesValues : Prop :=
  ∀ p : Params, ∀ s, s = State.construct p →
    s.radio = .uninitialized ∧ s.channel = p.defaultChannel.val ∧ s.power = p.defaultPower.val ∧
    s.txAddr = p.defaultAddress ∧ s.rxAddr = p.defaultAddress ∧ s.ce = .undriven ∧ s.csn = .undriven ∧
    s.seq = .idle ∧ s.trace = [] ∧ State.reset = State.construct Config.params

/-- When the block is Idle and the next line of the program decodes to `i`, the step is the meaning of `i`, in the state
with that line taken from the program and the sequencer Running at step 0 (R28, R238). That a whole request is one step is
log 1 (R28 allows it); that a frame line of a bus-level program is run as an instruction is the model's choice (log 7). -/
def Obligations.StepRunsTheDecodedInstruction : Prop :=
  ∀ (s : State) (item : PortItem) (rest : Program) (i : Instr),
    s.seq = .idle → s.radio ≠ .poweredDown → s.port.next? = some (item, rest) → decode item = .instr i →
    step s = exec i { s with port := rest, seq := .running i 0 }

/-- Where the step runs nothing: nothing presented changes nothing (log 8; of either level, log 7); a state in the middle of a request takes no
step (log 9); a PoweredDown state is no launch state (log 10). -/
def Obligations.StepWithoutARequest : Prop :=
  (∀ s : State, s.seq = .idle → s.radio ≠ .poweredDown → s.port = .requests [] ∨ s.port = .bus [] → step s = .next s) ∧
  (∀ (s : State) (i : Instr) (k : Nat), s.seq = .running i k → step s = .fault .midRequest) ∧
  (∀ s : State, s.seq = .idle → s.radio = .poweredDown → step s = .refused .notLaunchState)

/-- "A request whose op code is 101, 110 or 111 has no meaning: a model refuses it" (R237). The codes are the spec's own
(D19). -/
def Obligations.UnassignedRequestsAreRefused : Prop :=
  ∀ (s : State) (r : Request) (rest : List Request),
    s.seq = .idle → s.radio ≠ .poweredDown → s.port = .requests (r :: rest) → 5 ≤ r.op.toNat →
    step s = .refused (.unassignedRequest r.op)

/-- A line of a bus-level program is refused by name where it has no command byte, where its command byte is none of the
seven (R100, U12), and where it is a payload read, a flush or a no-op with a data phase of another length than its format's
(R91, R101). Log 7. -/
def Obligations.ForeignFramesAreRefused : Prop :=
  (∀ (s : State) (rest : List Bytes),
    s.seq = .idle → s.radio ≠ .poweredDown → s.port = .bus ([] :: rest) →
    step s = .refused (.notAFrame .emptyFrame)) ∧
  (∀ (s : State) (c : Byte) (data : Bytes) (rest : List Bytes),
    s.seq = .idle → s.radio ≠ .poweredDown → s.port = .bus ((c :: data) :: rest) →
    (commandOf c = none → step s = .refused (.notAFrame (.unknownCommand c))) ∧
    (c = 0x61 → data.length ≠ 32 → step s = .refused (.notAFrame (.badFrameLength c data.length))) ∧
    ((c = 0xE1 ∨ c = 0xE2 ∨ c = 0xFF) → data ≠ [] → step s = .refused (.notAFrame (.badFrameLength c data.length))))

/-- A word of the opcode table that decodes to `i`, put in front of the program, is run as `i` by the very next step. A
program of the other level makes way for it (log 11, log 7). -/
def Obligations.TableWordsRunAsDecoded : Prop :=
  ∀ (s : State) (nbits w : Nat) (i : Instr),
    s.radio ≠ .poweredDown → decodeTableWord nbits w = some i →
    step (s.withFetchWord nbits w) = exec i
      { s with
        port := if i.isRequest then .requests s.port.requestList else .bus s.port.busLines
        seq := .running i 0 }

/-- Requests are served one at a time in the order presented (R238): a step that runs takes the next line of the program,
leaves the rest, hands over exactly one result, and leaves the block Idle. That the frame lines of a bus-level program are
served so too, and that a program is of one of two levels, is the model's choice (log 7). And what the requester presents at the command
port reaches the procedures "only from the request handlers" (R103, D1): with a request-level program, as construction
leaves it (log 6), every step runs a request or nothing, and the program stays one. -/
def Obligations.RequestsAreServedInOrder : Prop :=
  (∀ (s t : State) (item : PortItem) (rest : Program), s.port.next? = some (item, rest) → step s = .next t →
    t.port = rest ∧ t.seq = .idle ∧ ∃ es r, Did s es r t) ∧
  (∀ p : Params, (State.construct p).port = .requests []) ∧
  (∀ (s t : State) (rs : List Request), s.port = .requests rs → step s = .next t →
    t.port = .requests rs.tail ∧
    (rs = [] ∧ t = s ∨
      ∃ i : Instr, i.isRequest = true ∧ exec i { s with port := .requests rs.tail, seq := .running i 0 } = .next t))

/-- Each primitive emits exactly its one event and advances the step pointer of the running request by one (R10, R28). -/
def Obligations.EachEventAdvancesTheSequencer : Prop :=
  ∀ (s : State) (i : Instr) (k : Nat) (l : Line) (v : Level) (ms : Nat) (out : Bytes), s.seq = .running i k →
    ((setLine l v s).2.seq = .running i (k + 1) ∧ (setLine l v s).2.trace = s.trace ++ [.line l v]) ∧
    ((wait ms s).2.seq = .running i (k + 1) ∧ (wait ms s).2.trace = s.trace ++ [.wait ms]) ∧
    ((exchange out s).2.seq = .running i (k + 1) ∧
      (exchange out s).2.trace = s.trace ++ [.xfer out (s.answerTo out)])

/-! ## RegisterAccess -/

/-- A frame is CSN low, one exchange, CSN high on every path; it answers the bytes of an Ok answer of its length and fails
with Transport on any other (R120; that CSN is released after a failed exchange is D3, and the failure answer D2). -/
def Obligations.FrameIsOneBracketedExchange : Prop :=
  ∀ (s : State) (out : Bytes),
    RA.frame out s =
      (match frameReply out (s.answerTo out) with
       | some data => .ok data
       | none => .error .transport, s.afterFrame out)

/-- R_REGISTER sends the command byte and one dummy byte and answers the second byte returned (R121). The bound on the
address is D6. -/
def Obligations.RegisterReadRuns : Prop :=
  ∀ (s : State) (a : Byte), a ≤ 0x1F →
    exec (.rRegister a) s = .next
      { s.afterFrame [a, s.params.dummyByte] with
        seq := .idle
        results := s.results ++
          [match frameReply [a, s.params.dummyByte] (s.answerTo [a, s.params.dummyByte]) with
           | some data => .accessOk [data.getD 1 0]
           | none => .accessFailed .transport] }

/-- R_REGISTER_MULTI sends the command byte and `n` dummy bytes and answers the `n` bytes after the status (R123). The
bounds are D5 and D6. -/
def Obligations.RegisterMultiReadRuns : Prop :=
  ∀ (s : State) (a : Byte) (n : Nat) (out : Bytes), a ≤ 0x1F → 1 ≤ n → n ≤ 32 →
    out = a :: List.replicate n s.params.dummyByte →
    exec (.rRegisterMulti a n) s = .next
      { s.afterFrame out with
        seq := .idle
        results := s.results ++
          [match frameReply out (s.answerTo out) with
           | some data => .accessOk (data.drop 1)
           | none => .accessFailed .transport] }

/-- W_REGISTER sends the command byte `0x20 | a` and the value (R122). The bound on the address is D6. -/
def Obligations.RegisterWriteRuns : Prop :=
  ∀ (s : State) (a v : Byte), a ≤ 0x1F →
    exec (.wRegister a v) s = .next
      { s.afterFrame [0x20 ||| a, v] with
        seq := .idle
        results := s.results ++
          [match frameReply [0x20 ||| a, v] (s.answerTo [0x20 ||| a, v]) with
           | some _ => .accessOk []
           | none => .accessFailed .transport] }

/-- W_REGISTER_MULTI sends the command byte and its 1 to 32 bytes in list order (R124, R61). The bounds are D5 and D6. -/
def Obligations.RegisterMultiWriteRuns : Prop :=
  ∀ (s : State) (a : Byte) (bs : Bytes), a ≤ 0x1F → 1 ≤ bs.length → bs.length ≤ 32 →
    exec (.wRegisterMulti a bs) s = .next
      { s.afterFrame ((0x20 ||| a) :: bs) with
        seq := .idle
        results := s.results ++
          [match frameReply ((0x20 ||| a) :: bs) (s.answerTo ((0x20 ||| a) :: bs)) with
           | some _ => .accessOk []
           | none => .accessFailed .transport] }

/-- R_RX_PAYLOAD sends 0x61 and 32 dummy bytes and answers the 32 bytes after the status (R129). -/
def Obligations.PayloadReadRuns : Prop :=
  ∀ (s : State) (out : Bytes), out = 0x61 :: List.replicate 32 s.params.dummyByte →
    exec .rRxPayload s = .next
      { s.afterFrame out with
        seq := .idle
        results := s.results ++
          [match frameReply out (s.answerTo out) with
           | some data => .accessOk (data.drop 1)
           | none => .accessFailed .transport] }

/-- W_TX_PAYLOAD sends 0xA0 and its 32 bytes (R128). -/
def Obligations.PayloadWriteRuns : Prop :=
  ∀ (s : State) (q : Bytes), q.length = 32 →
    exec (.wTxPayload q) s = .next
      { s.afterFrame (0xA0 :: q) with
        seq := .idle
        results := s.results ++
          [match frameReply (0xA0 :: q) (s.answerTo (0xA0 :: q)) with
           | some _ => .accessOk []
           | none => .accessFailed .transport] }

/-- FLUSH_TX sends `[0xE1]` and FLUSH_RX sends `[0xE2]`; the answer byte is ignored, and the only failure is the frame's
(R125, R126). -/
def Obligations.FlushCommandsRun : Prop :=
  ∀ (s : State) (i : Instr) (c : Byte), (i = .flushTx ∧ c = 0xE1) ∨ (i = .flushRx ∧ c = 0xE2) →
    exec i s = .next
      { s.afterFrame [c] with
        seq := .idle
        results := s.results ++
          [match frameReply [c] (s.answerTo [c]) with
           | some _ => .accessOk []
           | none => .accessFailed .transport] }

/-- NOP sends `[0xFF]` and answers the whole status byte, the first byte returned (R127). -/
def Obligations.StatusReadRuns : Prop :=
  ∀ s : State,
    exec .nop s = .next
      { s.afterFrame [0xFF] with
        seq := .idle
        results := s.results ++
          [match frameReply [0xFF] (s.answerTo [0xFF]) with
           | some data => .accessOk [data.getD 0 0]
           | none => .accessFailed .transport] }

/-- An address above 0x1F, a data phase outside 1 to 32 bytes, or a payload not of 32 bytes is Failure(Length): no event,
no answer used, and only the result handed over (R121 to R124, R128); and a bus-level line with such a data phase is run
so (log 7). Rejection above 32 bytes of a write is the source's; the other bounds are D5 and D6. -/
def Obligations.LengthFailuresTouchNothing : Prop :=
  (∀ (s : State) (i : Instr), i.wellFormed = false →
    exec i s = .next { s with seq := .idle, results := s.results ++ [.accessFailed .length] }) ∧
  (∀ (s : State) (c : Byte) (data : Bytes) (rest : List Bytes),
    s.seq = .idle → s.radio ≠ .poweredDown → s.port = .bus ((c :: data) :: rest) →
    (c.toNat < 0x40 ∧ (data.length = 0 ∨ 32 < data.length)) ∨ (c = 0xA0 ∧ data.length ≠ 32) →
    step s = .next { s with port := .bus rest, seq := .idle, results := s.results ++ [.accessFailed .length] })

/-- "A single-byte and a multi-byte register access of length 1 give the same frame" (R97), and here the same result and
state. -/
def Obligations.MultiByteAccessOfOneByteIsSingle : Prop :=
  (∀ (s : State) (a : Byte), exec (.rRegisterMulti a 1) s = exec (.rRegister a) s) ∧
  (∀ (s : State) (a v : Byte), exec (.wRegisterMulti a [v]) s = exec (.wRegister a v) s)

/-- With TRANSPORT_CAN_FAIL false nothing ends in Failure(Transport): the only failures left to a bus command are its
Length checks (R131). Where an answer was laid down that would be a failure, a free Ok answer is given (log 4). -/
def Obligations.NoTransportFailureWhenNoneIsPossible : Prop :=
  ∀ (s t : State) (i : Instr) (es : List Event) (r : Result),
    s.params.transportCanFail = false → exec i s = .next t → Did s es r t →
    r ≠ .response (.failure .transport) ∧ (∀ q, r = .accessFailed q → q = .length ∧ i.wellFormed = false)

/-! ## INIT -/

/-- INIT with its twelve frames answered emits the line setup, the startup wait and the twelve frames of R161 in their
order, and ends Standby (R232), CE Low and CSN High. The CONFIG, SETUP_AW, EN_AA, EN_RXADDR and power-field bytes are D8 to
D11 (log 16 to 18), and for a channel or power out of range the bytes are the model's (log 15). -/
def Obligations.InitRunsItsTwelveFrames : Prop :=
  ∀ (s : State) (as rest : List Answer), s.answers = as ++ rest →
    List.Forall₂ (fun out a => Answer.serves a out) (initFrames s) as →
    exec .init s = .next
      { s with
        radio := .standby
        ce := .low
        csn := .high
        seq := .idle
        answers := rest
        draws := s.draws + 12
        trace := s.trace ++ initSetupEvents ++ framesEvents (initFrames s) as
        results := s.results ++ [.response .ok] }

/-- INIT whose frame number `oks.length + 1` fails stops there: the frames up to and including it are emitted, no later
one, nothing is undone (R73), the response is Failure(Transport) and the block is Uninitialized, whatever it was before
(R161, R232; the last is D16). The CONFIG, SETUP_AW, EN_AA, EN_RXADDR and power-field bytes are D8 to D11 (log 16 to 18), and
for a channel or power out of range the bytes are the model's (log 15). -/
def Obligations.InitStopsAtItsFirstFailingFrame : Prop :=
  ∀ (s : State) (before after : List Bytes) (out : Bytes) (oks rest : List Answer) (bad : Answer),
    initFrames s = before ++ out :: after → s.answers = oks ++ bad :: rest →
    List.Forall₂ (fun o a => Answer.serves a o) before oks → bad.breaks s.params out →
    exec .init s = .next
      { s with
        radio := .uninitialized
        ce := .low
        csn := .high
        seq := .idle
        answers := rest
        draws := s.draws + (oks.length + 1)
        trace := s.trace ++ initSetupEvents ++ framesEvents before oks ++ frameEvents out bad
        results := s.results ++ [.response (.failure .transport)] }

/-! ## CONFIGURE -/

/-- Over-large operands are rejected before any hardware access, in every state: no event, and no field changes but the
response handed over (R230, R233). -/
def Obligations.ConfigureRejectsOverlargeOperands : Prop :=
  ∀ (s : State) (c p : Int), 125 < c ∨ 3 < p →
    exec (.configure c p) s = .next { s with seq := .idle, results := s.results ++ [.response .validationError] }

/-- Negative operands are rejected in the same way (R230). That they are invalid is D27. -/
def Obligations.ConfigureRejectsNegativeOperands : Prop :=
  ∀ (s : State) (c p : Int), c < 0 ∨ p < 0 →
    exec (.configure c p) s = .next { s with seq := .idle, results := s.results ++ [.response .validationError] }

/-- Before INIT, valid values "are simply cached for use during the next initialize": no event, Ok (R233). -/
def Obligations.ConfigureCachesBeforeInit : Prop :=
  ∀ (s : State) (c p : Int), 0 ≤ c → c ≤ 125 → 0 ≤ p → p ≤ 3 → s.radio = .uninitialized →
    exec (.configure c p) s = .next
      { s with channel := c, power := p, seq := .idle, results := s.results ++ [.response .ok] }

/-- After INIT, CONFIGURE writes RF_CH, reads RF_SETUP, writes it back with the power bits replaced and every other bit as
read, and takes the values over (R231, R233). The place of the power bits is K1 (log 16). -/
def Obligations.ConfigureAppliesAfterInit : Prop :=
  ∀ (s : State) (c p : Int) (a1 a3 : Answer) (st v : Byte) (rest : List Answer),
    0 ≤ c → c ≤ 125 → 0 ≤ p → p ≤ 3 → s.radio ≠ .uninitialized →
    s.answers = a1 :: .ok [st, v] :: a3 :: rest → a1.serves [0x25, BitVec.ofInt 8 c] →
    a3.serves [0x26, (v &&& (0xF9 : Byte)) ||| (BitVec.ofInt 8 p <<< (1 : Nat))] →
    exec (.configure c p) s = .next
      { s with
        channel := c
        power := p
        csn := .high
        seq := .idle
        answers := rest
        draws := s.draws + 3
        trace := s.trace ++ frameEvents [0x25, BitVec.ofInt 8 c] a1 ++
          frameEvents [0x06, s.params.dummyByte] (.ok [st, v]) ++
          frameEvents [0x26, (v &&& (0xF9 : Byte)) ||| (BitVec.ofInt 8 p <<< (1 : Nat))] a3
        results := s.results ++ [.response .ok] }

/-- CONFIGURE whose first, second or third frame fails stops there with Failure(Transport); channel and power keep the
values from before the call (R231, R233, R73). The place of the power bits is K1, D11 (log 16). -/
def Obligations.ConfigureFailureKeepsChannelAndPower : Prop :=
  ∀ (s : State) (c p : Int) (a1 a2 a3 : Answer) (st v : Byte) (rest : List Answer),
    0 ≤ c → c ≤ 125 → 0 ≤ p → p ≤ 3 → s.radio ≠ .uninitialized →
    (s.answers = a1 :: rest → a1.breaks s.params [0x25, BitVec.ofInt 8 c] →
      exec (.configure c p) s = .next
        { s with
          csn := .high
          seq := .idle
          answers := rest
          draws := s.draws + 1
          trace := s.trace ++ frameEvents [0x25, BitVec.ofInt 8 c] a1
          results := s.results ++ [.response (.failure .transport)] }) ∧
    (s.answers = a1 :: a2 :: rest → a1.serves [0x25, BitVec.ofInt 8 c] → a2.breaks s.params [0x06, s.params.dummyByte] →
      exec (.configure c p) s = .next
        { s with
          csn := .high
          seq := .idle
          answers := rest
          draws := s.draws + 2
          trace := s.trace ++ frameEvents [0x25, BitVec.ofInt 8 c] a1 ++ frameEvents [0x06, s.params.dummyByte] a2
          results := s.results ++ [.response (.failure .transport)] }) ∧
    (s.answers = a1 :: .ok [st, v] :: a3 :: rest → a1.serves [0x25, BitVec.ofInt 8 c] →
      a3.breaks s.params [0x26, (v &&& (0xF9 : Byte)) ||| (BitVec.ofInt 8 p <<< (1 : Nat))] →
      exec (.configure c p) s = .next
        { s with
          csn := .high
          seq := .idle
          answers := rest
          draws := s.draws + 3
          trace := s.trace ++ frameEvents [0x25, BitVec.ofInt 8 c] a1 ++
            frameEvents [0x06, s.params.dummyByte] (.ok [st, v]) ++
            frameEvents [0x26, (v &&& (0xF9 : Byte)) ||| (BitVec.ofInt 8 p <<< (1 : Nat))] a3
          results := s.results ++ [.response (.failure .transport)] })

/-! ## SEND -/

/-- SEND whose first flagged poll, at most the 1000th, reads the status `v`: enter transmit, flush, the 32-byte wire
payload, the CE pulse, the unflagged polls each with its wait, the flagged poll, and the clear of exactly the flags seen;
Ok if and only if TX_DS was among them, else Failure(MaxRetries); the block is Transmitting, CE Low (R162, R190, R191,
R234). CONFIG 0x0A is D8, the clear byte D13, the place of the wait D14. -/
def Obligations.SendEndsAtItsFirstFlaggedPoll : Prop :=
  ∀ (s : State) (p : Bytes) (a1 a2 a3 a4 : Answer) (us : List Byte) (v : Byte) (rest : List Answer),
    s.radio ≠ .uninitialized → Unflagged us → us.length < 1000 → v &&& 0x30 ≠ 0 →
    s.answers = a1 :: a2 :: a3 :: (pollAnswers us ++ .ok [v] :: a4 :: rest) →
    a1.serves [0x20, 0x0A] → a2.serves [0xE1] → a3.serves (0xA0 :: wire32 p) → a4.serves [0x27, v &&& 0x30] →
    exec (.send p) s = .next
      { s with
        radio := .transmitting
        ce := .low
        csn := .high
        seq := .idle
        answers := rest
        draws := s.draws + (us.length + 5)
        trace := s.trace ++ [.line .ce .low] ++ frameEvents [0x20, 0x0A] a1 ++ [.wait 2] ++ frameEvents [0xE1] a2 ++
          frameEvents (0xA0 :: wire32 p) a3 ++ [.line .ce .high, .wait 1, .line .ce .low] ++ pollEvents us ++
          frameEvents [0xFF] (.ok [v]) ++ frameEvents [0x27, v &&& 0x30] a4
        results := s.results ++
          [.response (if v &&& 0x20 = 0 then .failure .maxRetries else .ok)] }

/-- SEND with 1000 polls that saw neither flag ends in Failure(Timeout) after the 1000th wait, with no clear frame (R190,
R191, after R162; the order of poll and wait is D14, CONFIG 0x0A is D8). -/
def Obligations.SendTimesOutAfterAThousandPolls : Prop :=
  ∀ (s : State) (p : Bytes) (a1 a2 a3 : Answer) (us : List Byte) (rest : List Answer),
    s.radio ≠ .uninitialized → Unflagged us → us.length = 1000 →
    s.answers = a1 :: a2 :: a3 :: (pollAnswers us ++ rest) →
    a1.serves [0x20, 0x0A] → a2.serves [0xE1] → a3.serves (0xA0 :: wire32 p) →
    exec (.send p) s = .next
      { s with
        radio := .transmitting
        ce := .low
        csn := .high
        seq := .idle
        answers := rest
        draws := s.draws + 1003
        trace := s.trace ++ [.line .ce .low] ++ frameEvents [0x20, 0x0A] a1 ++ [.wait 2] ++ frameEvents [0xE1] a2 ++
          frameEvents (0xA0 :: wire32 p) a3 ++ [.line .ce .high, .wait 1, .line .ce .low] ++ pollEvents us
        results := s.results ++ [.response (.failure .timeout)] }

/-- SEND whose CONFIG frame fails: no settle wait, nothing of TRANSMIT, RadioState unchanged, CE Low (R162, R234).
The state is D17, CONFIG 0x0A is D8. -/
def Obligations.SendStopsWhenEnteringFails : Prop :=
  ∀ (s : State) (p : Bytes) (bad : Answer) (rest : List Answer),
    s.radio ≠ .uninitialized → s.answers = bad :: rest → bad.breaks s.params [0x20, 0x0A] →
    exec (.send p) s = .next
      { s with
        ce := .low
        csn := .high
        seq := .idle
        answers := rest
        draws := s.draws + 1
        trace := s.trace ++ [.line .ce .low] ++ frameEvents [0x20, 0x0A] bad
        results := s.results ++ [.response (.failure .transport)] }

/-- SEND whose flush or payload frame fails: CE is never High, no poll is made, RadioState is Transmitting (R162,
R190, R234; D15, D17). CONFIG 0x0A is D8 (log 20). -/
def Obligations.SendStopsBeforeThePulse : Prop :=
  ∀ (s : State) (p : Bytes) (a1 a2 a3 : Answer) (rest : List Answer),
    s.radio ≠ .uninitialized → a1.serves [0x20, 0x0A] →
    (s.answers = a1 :: a2 :: rest → a2.breaks s.params [0xE1] →
      exec (.send p) s = .next
        { s with
          radio := .transmitting
          ce := .low
          csn := .high
          seq := .idle
          answers := rest
          draws := s.draws + 2
          trace := s.trace ++ [.line .ce .low] ++ frameEvents [0x20, 0x0A] a1 ++ [.wait 2] ++ frameEvents [0xE1] a2
          results := s.results ++ [.response (.failure .transport)] }) ∧
    (s.answers = a1 :: a2 :: a3 :: rest → a2.serves [0xE1] → a3.breaks s.params (0xA0 :: wire32 p) →
      exec (.send p) s = .next
        { s with
          radio := .transmitting
          ce := .low
          csn := .high
          seq := .idle
          answers := rest
          draws := s.draws + 3
          trace := s.trace ++ [.line .ce .low] ++ frameEvents [0x20, 0x0A] a1 ++ [.wait 2] ++ frameEvents [0xE1] a2 ++
            frameEvents (0xA0 :: wire32 p) a3
          results := s.results ++ [.response (.failure .transport)] })

/-- SEND with a failing poll, or a failing clear after a flagged poll, ends at once in Failure(Transport): a failed clear
after TX_DS was seen is no Ok, and the block is Transmitting (R162, R190, R234, R272; D15, D17). CONFIG 0x0A is D8, the clear
byte D13, the place of the wait D14 (log 20). -/
def Obligations.SendStopsAtAFailingPollOrClear : Prop :=
  ∀ (s : State) (p : Bytes) (a1 a2 a3 bad : Answer) (us : List Byte) (v : Byte) (rest : List Answer),
    s.radio ≠ .uninitialized → Unflagged us → us.length < 1000 →
    a1.serves [0x20, 0x0A] → a2.serves [0xE1] → a3.serves (0xA0 :: wire32 p) →
    (s.answers = a1 :: a2 :: a3 :: (pollAnswers us ++ bad :: rest) → bad.breaks s.params [0xFF] →
      exec (.send p) s = .next
        { s with
          radio := .transmitting
          ce := .low
          csn := .high
          seq := .idle
          answers := rest
          draws := s.draws + (us.length + 4)
          trace := s.trace ++ [.line .ce .low] ++ frameEvents [0x20, 0x0A] a1 ++ [.wait 2] ++ frameEvents [0xE1] a2 ++
            frameEvents (0xA0 :: wire32 p) a3 ++ [.line .ce .high, .wait 1, .line .ce .low] ++ pollEvents us ++
            frameEvents [0xFF] bad
          results := s.results ++ [.response (.failure .transport)] }) ∧
    (s.answers = a1 :: a2 :: a3 :: (pollAnswers us ++ .ok [v] :: bad :: rest) → v &&& 0x30 ≠ 0 →
      bad.breaks s.params [0x27, v &&& 0x30] →
      exec (.send p) s = .next
        { s with
          radio := .transmitting
          ce := .low
          csn := .high
          seq := .idle
          answers := rest
          draws := s.draws + (us.length + 5)
          trace := s.trace ++ [.line .ce .low] ++ frameEvents [0x20, 0x0A] a1 ++ [.wait 2] ++ frameEvents [0xE1] a2 ++
            frameEvents (0xA0 :: wire32 p) a3 ++ [.line .ce .high, .wait 1, .line .ce .low] ++ pollEvents us ++
            frameEvents [0xFF] (.ok [v]) ++ frameEvents [0x27, v &&& 0x30] bad
          results := s.results ++ [.response (.failure .transport)] })

/-! ## START_RECEIVE and RECEIVE -/

/-- START_RECEIVE answers NotReady, with no event, when not initialized; else it is ENTER_RECEIVE: with its frame answered
CE is raised after the settle wait and the block is Listening, with its frame failed there is no wait, CE stays Low and
RadioState is unchanged (R163, R235; the last is D17). CONFIG 0x0B is D8. -/
def Obligations.StartReceiveRuns : Prop :=
  ∀ (s : State) (a : Answer) (rest : List Answer),
    (s.radio = .uninitialized →
      exec .startReceive s = .next { s with seq := .idle, results := s.results ++ [.response .notReady] }) ∧
    (s.radio ≠ .uninitialized → s.answers = a :: rest → a.serves [0x20, 0x0B] →
      exec .startReceive s = .next
        { s with
          radio := .listening
          ce := .high
          csn := .high
          seq := .idle
          answers := rest
          draws := s.draws + 1
          trace := s.trace ++ [.line .ce .low] ++ frameEvents [0x20, 0x0B] a ++ [.wait 2, .line .ce .high]
          results := s.results ++ [.response .ok] }) ∧
    (s.radio ≠ .uninitialized → s.answers = a :: rest → a.breaks s.params [0x20, 0x0B] →
      exec .startReceive s = .next
        { s with
          ce := .low
          csn := .high
          seq := .idle
          answers := rest
          draws := s.draws + 1
          trace := s.trace ++ [.line .ce .low] ++ frameEvents [0x20, 0x0B] a
          results := s.results ++ [.response (.failure .transport)] })

/-- RECEIVE with RX_DR not set reports "nothing available": one NOP frame, Ok, found false (R192, R236). -/
def Obligations.ReceiveFindsNothing : Prop :=
  ∀ (s : State) (v : Byte) (rest : List Answer),
    s.radio ≠ .uninitialized → s.answers = .ok [v] :: rest → v &&& 0x40 = 0 →
    exec .receive s = .next
      { s with
        csn := .high
        seq := .idle
        answers := rest
        draws := s.draws + 1
        trace := s.trace ++ frameEvents [0xFF] (.ok [v])
        results := s.results ++ [.response { code := .ok, reason := none, found := false, data := [] }] }

/-- RECEIVE with RX_DR set clears RX_DR alone, then reads the payload, and returns the 32 bytes after the status, found
true (R192, R236). -/
def Obligations.ReceiveDeliversThePayload : Prop :=
  ∀ (s : State) (v st : Byte) (a2 : Answer) (data : Bytes) (rest : List Answer),
    s.radio ≠ .uninitialized → v &&& 0x40 ≠ 0 → data.length = 32 → a2.serves [0x27, 0x40] →
    s.answers = .ok [v] :: a2 :: .ok (st :: data) :: rest →
    exec .receive s = .next
      { s with
        csn := .high
        seq := .idle
        answers := rest
        draws := s.draws + 3
        trace := s.trace ++ frameEvents [0xFF] (.ok [v]) ++ frameEvents [0x27, 0x40] a2 ++
          frameEvents (0x61 :: List.replicate 32 s.params.dummyByte) (.ok (st :: data))
        results := s.results ++ [.response { code := .ok, reason := none, found := true, data := data }] }

/-- RECEIVE whose status, clear or payload frame fails stops there with Failure(Transport); a clear already made stays
made (R192, R73; D15). -/
def Obligations.ReceiveStopsAtAFailingFrame : Prop :=
  ∀ (s : State) (v : Byte) (a2 bad : Answer) (rest : List Answer),
    s.radio ≠ .uninitialized →
    (s.answers = bad :: rest → bad.breaks s.params [0xFF] →
      exec .receive s = .next
        { s with
          csn := .high
          seq := .idle
          answers := rest
          draws := s.draws + 1
          trace := s.trace ++ frameEvents [0xFF] bad
          results := s.results ++ [.response (.failure .transport)] }) ∧
    (s.answers = .ok [v] :: bad :: rest → v &&& 0x40 ≠ 0 → bad.breaks s.params [0x27, 0x40] →
      exec .receive s = .next
        { s with
          csn := .high
          seq := .idle
          answers := rest
          draws := s.draws + 2
          trace := s.trace ++ frameEvents [0xFF] (.ok [v]) ++ frameEvents [0x27, 0x40] bad
          results := s.results ++ [.response (.failure .transport)] }) ∧
    (s.answers = .ok [v] :: a2 :: bad :: rest → v &&& 0x40 ≠ 0 → a2.serves [0x27, 0x40] →
      bad.breaks s.params (0x61 :: List.replicate 32 s.params.dummyByte) →
      exec .receive s = .next
        { s with
          csn := .high
          seq := .idle
          answers := rest
          draws := s.draws + 3
          trace := s.trace ++ frameEvents [0xFF] (.ok [v]) ++ frameEvents [0x27, 0x40] a2 ++
            frameEvents (0x61 :: List.replicate 32 s.params.dummyByte) bad
          results := s.results ++ [.response (.failure .transport)] })

/-- SEND, START_RECEIVE and RECEIVE before a successful INIT answer NotReady and do nothing else (R234 to R236; for
RECEIVE this is D18). -/
def Obligations.RequestsBeforeInitAreNotReady : Prop :=
  ∀ (s : State) (i : Instr), s.radio = .uninitialized → (∃ p, i = .send p) ∨ i = .startReceive ∨ i = .receive →
    exec i s = .next { s with seq := .idle, results := s.results ++ [.response .notReady] }

/-! ## Rules of the whole machine -/

/-- What holds between requests is kept by every step: the sequencer Idle, RadioState never PoweredDown, channel and power
valid, both addresses the construction's, no open transaction, CE High only while listening, and the program a requester's
(R103), so that no run from such a state runs a bus command on its own. All but the last is kept with a bus-level program
too, which is the model's choice (log 7). -/
def Obligations.EveryStepKeepsTheInvariant : Prop :=
  (∀ s t : State, s.Inv → step s = .next t → t.Inv) ∧ (∀ s t : State, s.Settled → step s = .next t → t.Settled)

/-- Every constructed block meets the invariant, and so does the reset state. That its program is an empty one of requests
is the model's choice (log 6, log 7). -/
def Obligations.ConstructionMeetsTheInvariant : Prop :=
  State.reset.Inv ∧ ∀ p : Params, (State.construct p).Inv

/-- Channel and power "hold a valid value at all times": construction gives valid values, every step keeps them so from
any state where they are, and only a CONFIGURE with valid operands writes them, with its operands (R25). That negative
operands are invalid is D27. -/
def Obligations.ChannelAndPowerStayValid : Prop :=
  (∀ p : Params, (State.construct p).validFields) ∧
  (∀ s t : State, s.validFields → step s = .next t → t.validFields) ∧
  (∀ (s t : State) (i : Instr), exec i s = .next t → t.channel ≠ s.channel ∨ t.power ≠ s.power →
    ∃ c p, i = .configure c p ∧ 0 ≤ c ∧ c ≤ 125 ∧ 0 ≤ p ∧ p ≤ 3 ∧ t.channel = c ∧ t.power = p)

/-- RadioState changes only as the table of R22 says, with the result handed over. A SEND whose trace has no more than four
events failed inside ENTER_TRANSMIT (R162). After a failed INIT and inside a failed mode entry this is D16 and D17. -/
def Obligations.RadioStateFollowsTheTable : Prop :=
  ∀ (s t : State) (i : Instr) (es : List Event) (r : Result), exec i s = .next t → Did s es r t →
    (i = .init → t.radio = if r = .response .ok then .standby else .uninitialized) ∧
    (∀ p, i = .send p → t.radio = if es.length ≤ 4 then s.radio else .transmitting) ∧
    (i = .startReceive → t.radio = if r = .response .ok then .listening else s.radio) ∧
    (i ≠ .init → (∀ p, i ≠ .send p) → i ≠ .startReceive → t.radio = s.radio)

/-- The CE level at the end of each request (R164): INIT and an accepted SEND leave it Low on every outcome, START_RECEIVE
High on Ok and Low on Failure, everything else leaves it as it was. -/
def Obligations.ChipEnableAtTheEndOfARequest : Prop :=
  ∀ (s t : State) (i : Instr) (es : List Event) (r : Result), exec i s = .next t → Did s es r t →
    (i = .init → t.ce = .low) ∧
    (∀ p, i = .send p → t.ce = if r = .response .notReady then s.ce else .low) ∧
    (i = .startReceive →
      t.ce = if r = .response .notReady then s.ce else if r = .response .ok then .high else .low) ∧
    (i ≠ .init → (∀ p, i ≠ .send p) → i ≠ .startReceive → t.ce = s.ce)

/-- The frame of every instruction over the record of R20 and the interfaces: only a CONFIGURE that answers Ok changes
channel and power, and to its operands; no instruction changes the addresses, the parameters or what is presented; the
trace and the results only grow, the results by one; the block ends Idle, with CSN High if an event was emitted and as it
was otherwise; one answer is used per exchange. -/
def Obligations.InstructionsTouchOnlyTheirFields : Prop :=
  ∀ (s t : State) (i : Instr), exec i s = .next t →
    ∃ es r, Did s es r t ∧
      (∀ c p, i = .configure c p → r = .response .ok → t.channel = c ∧ t.power = p) ∧
      ((∀ c p, i = .configure c p → r ≠ .response .ok) → t.channel = s.channel ∧ t.power = s.power) ∧
      t.txAddr = s.txAddr ∧ t.rxAddr = s.rxAddr ∧ t.params = s.params ∧ t.port = s.port ∧ t.seq = .idle ∧
      t.csn = (if es = [] then s.csn else .high) ∧
      t.draws = s.draws + es.countP Event.isXfer ∧
      t.answers = s.answers.drop (t.draws - s.draws)

/-- Every request ends with exactly one response, of the shape of R99 and R270: a reason exactly with a Failure and never
Length (R271), data only with `found`, which only RECEIVE's Ok sets, with 32 bytes. -/
def Obligations.ResponsesHaveTheirShape : Prop :=
  ∀ (s t : State) (i : Instr) (es : List Event) (r : Result), i.isRequest = true → exec i s = .next t → Did s es r t →
    ∃ resp, r = .response resp ∧
      (resp.reason.isSome = true ↔ resp.code = .failure) ∧ resp.reason ≠ some .length ∧
      (resp.reason = some .maxRetries ∨ resp.reason = some .timeout → ∃ p, i = .send p) ∧
      (resp.code = .validationError → ∃ c p, i = .configure c p) ∧
      (resp.found = true → i = .receive ∧ resp.code = .ok ∧ resp.data.length = 32) ∧
      (resp.found = false → resp.data = [])

/-- Every request ends, after no more events than R239 gives it, whatever the environment answers; so does every bus
command. For SEND the bound is R239's 5 + 4009 but for one case, which R190's text gives: a flag first seen at the 1000th
poll, whose clear frame makes it 5 + 4011 events, and some SEND does that (log 22). A time-out has exactly 5 + 4009. -/
def Obligations.EveryInstructionEndsWithinItsBound : Prop :=
  (∀ (s : State) (i : Instr), ∃ t es r, exec i s = .next t ∧ Did s es r t ∧ es.length ≤ eventBound i) ∧
  (∀ (s t : State) (p : Bytes) (es : List Event) (r : Result), exec (.send p) s = .next t → Did s es r t →
    (es.length ≤ 5 + 4009 ∨ (es.length = 5 + 4011 ∧ es.countP Event.isPoll = 1000)) ∧
    (r = .response (.failure .timeout) → es.length = 5 + 4009)) ∧
  (∃ (s t : State) (p : Bytes) (es : List Event) (r : Result),
    exec (.send p) s = .next t ∧ Did s es r t ∧ es.length = 5 + 4011)

/-- What a request emits passes every check a trace of this block must pass: only frames of the block, whole CSN brackets,
the mandatory waits, INIT's startup before INIT's frames, at most 1000 polls (R100, R165, R303 to R307; R130 as log 21 reads
it: INIT drives CSN High once outside a bracket). And a trace is recognised as one of an instruction's runs exactly where no
wait of it is shortened: what the instruction emitted is, and is no more once a wait of it is shorter or left out (R165,
R310; U1, D21). -/
def Obligations.RequestsEmitTracesOfTheBlock : Prop :=
  ∀ (s t : State) (i : Instr) (es : List Event) (r : Result), exec i s = .next t → Did s es r t →
    (i.isRequest = true → traceOk s.params.dummyByte es = true) ∧
    s.emits i es = true ∧
    ∀ pre n post, es = pre ++ Event.wait n :: post →
      s.emits i (pre ++ post) = false ∧ ∀ m, m < n → s.emits i (pre ++ Event.wait m :: post) = false

/-- "A frame is `CSN LOW`, exactly one exchange, `CSN HIGH`; frames never nest or overlap": what any instruction emits is
made of whole brackets, and an instruction begun with no transaction open leaves none open (R307). -/
def Obligations.FramesNeverNestOrOverlap : Prop :=
  ∀ (s t : State) (i : Instr) (es : List Event) (r : Result), exec i s = .next t → Did s es r t →
    bracketed es = true ∧ (s.busReleased → t.busReleased) ∧
    ∀ pre out a post, es = pre ++ Event.xfer out a :: post →
      ∃ pre' post', pre = pre' ++ [Event.line .csn .low] ∧ post = Event.line .csn .high :: post' ∧
        bracketed pre' = true ∧ bracketed post' = true

/-- "After the CONFIG write that sets PWR_UP, at least 2 ms pass before the next chip-affecting event": in what a request
emits, the event after such a frame is a wait of at least 2 ms (R304). -/
def Obligations.SettleWaitFollowsPowerUp : Prop :=
  ∀ (s t : State) (i : Instr) (es : List Event) (r : Result), i.isRequest = true → exec i s = .next t → Did s es r t →
    ∀ pre v a e post, es = pre ++ Event.xfer [0x20, v] a :: .line .csn .high :: e :: post →
      v &&& 0x02 ≠ 0 → ∃ ms, 2 ≤ ms ∧ e = .wait ms

/-- "CE is High for at least 1 ms and then Low, after the payload frame and before the first status poll" (R305): where a
SEND raises CE, the payload frame is before it, no poll is, and a wait of at least 1 ms and CE Low follow; and no SEND
polls that has not raised CE. -/
def Obligations.TransmitPulseIsTimed : Prop :=
  ∀ (s t : State) (p : Bytes) (es : List Event) (r : Result), exec (.send p) s = .next t → Did s es r t →
    (∀ pre post, es = pre ++ Event.line .ce .high :: post →
      (∃ a, Event.xfer (0xA0 :: wire32 p) a ∈ pre) ∧ (∀ e ∈ pre, e.isPoll = false) ∧
      ∃ ms post', 1 ≤ ms ∧ post = .wait ms :: .line .ce .low :: post') ∧
    (∀ pre e post, es = pre ++ e :: post → e.isPoll = true → Event.line .ce .high ∈ pre)

/-- A failing frame ends its instruction: nothing follows its CSN release, and the result handed over is
Failure(Transport); and there is no Failure(Transport) without one (R272, R275). -/
def Obligations.TheFirstFailingFrameEndsTheRequest : Prop :=
  ∀ (s t : State) (i : Instr) (es : List Event) (r : Result), exec i s = .next t → Did s es r t →
    (∀ pre e post, es = pre ++ e :: post → e.failed = true →
      post = [.line .csn .high] ∧ (r = .response (.failure .transport) ∨ r = .accessFailed .transport)) ∧
    ((r = .response (.failure .transport) ∨ r = .accessFailed .transport) → ∃ e ∈ es, e.failed = true)

/-- Before an INIT has succeeded no request but INIT emits an event or drives a line: "SEND, START_RECEIVE or RECEIVE" do
nothing, and "CONFIGURE may come before INIT and then only caches" (R301). -/
def Obligations.NothingIsEmittedBeforeInit : Prop :=
  ∀ (s t : State) (i : Instr), s.radio = .uninitialized → i.isRequest = true → i ≠ .init → exec i s = .next t →
    t.trace = s.trace ∧ t.radio = .uninitialized ∧ t.ce = s.ce ∧ t.csn = s.csn ∧
    t.answers = s.answers ∧ t.draws = s.draws ∧
    ((∀ c p, i ≠ .configure c p) → t.results = s.results ++ [.response .notReady])

/-- The waits of each request sum to what the table of R313 says: with the polls made counted by their NOP frames. -/
def Obligations.WaitsSumToTheTable : Prop :=
  ∀ (s t : State) (i : Instr) (es : List Event) (r : Result), exec i s = .next t → Did s es r t →
    (i = .init → waitSum es = 100) ∧
    ((∃ c p, i = .configure c p) ∨ i = .receive → waitSum es = 0) ∧
    (i = .startReceive → waitSum es = if r = .response .ok then 2 else 0) ∧
    (∀ p, i = .send p →
      (r = .response .ok ∨ r = .response (.failure .maxRetries) → waitSum es = 2 + es.countP Event.isPoll) ∧
      (r = .response (.failure .timeout) → waitSum es = 1003 ∧ es.countP Event.isPoll = 1000) ∧
      (r = .response (.failure .transport) →
        (es.length ≤ 4 → waitSum es = 0) ∧ (4 < es.length → 2 ≤ waitSum es ∧ waitSum es ≤ 1002)))

/-- What an instruction does depends on the record of R20, the parameters and the environment's answers alone: not on what
was emitted or handed over before, nor on what the requester presents next (R11, R71). -/
def Obligations.HistoryDoesNotMatter : Prop :=
  ∀ (s : State) (i : Instr) (trace : List Event) (results : List Result) (port : Program) (seq : Seq),
    ∃ t es r, exec i s = .next t ∧ Did s es r t ∧
      exec i { s with trace := trace, results := results, port := port, seq := seq } =
        .next { t with trace := trace ++ es, results := results ++ [r], port := port }
end

