-- ==== Sys2Proof/Laws/State.lean ====
section
/-! SUPPORT. One lemma per field per update of the state, true by definition. -/

namespace Sys2Proof.Machine

variable (s : State)

/-! ## The program -/

@[simp] theorem Program.next?_requests_nil : (Program.requests []).next? = none := rfl
@[simp] theorem Program.next?_requests_cons (r : Request) (rs : List Request) :
    (Program.requests (r :: rs)).next? = some (.request r, .requests rs) := rfl
@[simp] theorem Program.next?_bus_nil : (Program.bus []).next? = none := rfl
@[simp] theorem Program.next?_bus_cons (out : Bytes) (lines : List Bytes) :
    (Program.bus (out :: lines)).next? = some (.frame out, .bus lines) := rfl
@[simp] theorem Program.requestList_requests (rs : List Request) : (Program.requests rs).requestList = rs := rfl
@[simp] theorem Program.requestList_bus (lines : List Bytes) : (Program.bus lines).requestList = [] := rfl
@[simp] theorem Program.busLines_requests (rs : List Request) : (Program.requests rs).busLines = [] := rfl
@[simp] theorem Program.busLines_bus (lines : List Bytes) : (Program.bus lines).busLines = lines := rfl
@[simp] theorem Program.next?_push_request (p : Program) (r : Request) :
    (p.push (.request r)).next? = some (.request r, .requests p.requestList) := rfl
@[simp] theorem Program.next?_push_frame (p : Program) (out : Bytes) :
    (p.push (.frame out)).next? = some (.frame out, .bus p.busLines) := rfl

/-! ## `emit` -/

@[simp] theorem State.emit_radio (e : Event) : (s.emit e).radio = s.radio := rfl
@[simp] theorem State.emit_channel (e : Event) : (s.emit e).channel = s.channel := rfl
@[simp] theorem State.emit_power (e : Event) : (s.emit e).power = s.power := rfl
@[simp] theorem State.emit_txAddr (e : Event) : (s.emit e).txAddr = s.txAddr := rfl
@[simp] theorem State.emit_rxAddr (e : Event) : (s.emit e).rxAddr = s.rxAddr := rfl
@[simp] theorem State.emit_ce (e : Event) : (s.emit e).ce = s.ce := rfl
@[simp] theorem State.emit_csn (e : Event) : (s.emit e).csn = s.csn := rfl
@[simp] theorem State.emit_seq (e : Event) : (s.emit e).seq = s.seq.advance := rfl
@[simp] theorem State.emit_params (e : Event) : (s.emit e).params = s.params := rfl
@[simp] theorem State.emit_port (e : Event) : (s.emit e).port = s.port := rfl
@[simp] theorem State.emit_answers (e : Event) : (s.emit e).answers = s.answers := rfl
@[simp] theorem State.emit_draws (e : Event) : (s.emit e).draws = s.draws := rfl
@[simp] theorem State.emit_trace (e : Event) : (s.emit e).trace = s.trace ++ [e] := rfl
@[simp] theorem State.emit_results (e : Event) : (s.emit e).results = s.results := rfl

/-! ## `drive_ce` -/

@[simp] theorem State.drive_ce_radio (v : Level) : (s.drive .ce v).radio = s.radio := rfl
@[simp] theorem State.drive_ce_channel (v : Level) : (s.drive .ce v).channel = s.channel := rfl
@[simp] theorem State.drive_ce_power (v : Level) : (s.drive .ce v).power = s.power := rfl
@[simp] theorem State.drive_ce_txAddr (v : Level) : (s.drive .ce v).txAddr = s.txAddr := rfl
@[simp] theorem State.drive_ce_rxAddr (v : Level) : (s.drive .ce v).rxAddr = s.rxAddr := rfl
@[simp] theorem State.drive_ce_ce (v : Level) : (s.drive .ce v).ce = v.onLine := rfl
@[simp] theorem State.drive_ce_csn (v : Level) : (s.drive .ce v).csn = s.csn := rfl
@[simp] theorem State.drive_ce_seq (v : Level) : (s.drive .ce v).seq = s.seq := rfl
@[simp] theorem State.drive_ce_params (v : Level) : (s.drive .ce v).params = s.params := rfl
@[simp] theorem State.drive_ce_port (v : Level) : (s.drive .ce v).port = s.port := rfl
@[simp] theorem State.drive_ce_answers (v : Level) : (s.drive .ce v).answers = s.answers := rfl
@[simp] theorem State.drive_ce_draws (v : Level) : (s.drive .ce v).draws = s.draws := rfl
@[simp] theorem State.drive_ce_trace (v : Level) : (s.drive .ce v).trace = s.trace := rfl
@[simp] theorem State.drive_ce_results (v : Level) : (s.drive .ce v).results = s.results := rfl

/-! ## `drive_csn` -/

@[simp] theorem State.drive_csn_radio (v : Level) : (s.drive .csn v).radio = s.radio := rfl
@[simp] theorem State.drive_csn_channel (v : Level) : (s.drive .csn v).channel = s.channel := rfl
@[simp] theorem State.drive_csn_power (v : Level) : (s.drive .csn v).power = s.power := rfl
@[simp] theorem State.drive_csn_txAddr (v : Level) : (s.drive .csn v).txAddr = s.txAddr := rfl
@[simp] theorem State.drive_csn_rxAddr (v : Level) : (s.drive .csn v).rxAddr = s.rxAddr := rfl
@[simp] theorem State.drive_csn_ce (v : Level) : (s.drive .csn v).ce = s.ce := rfl
@[simp] theorem State.drive_csn_csn (v : Level) : (s.drive .csn v).csn = v.onLine := rfl
@[simp] theorem State.drive_csn_seq (v : Level) : (s.drive .csn v).seq = s.seq := rfl
@[simp] theorem State.drive_csn_params (v : Level) : (s.drive .csn v).params = s.params := rfl
@[simp] theorem State.drive_csn_port (v : Level) : (s.drive .csn v).port = s.port := rfl
@[simp] theorem State.drive_csn_answers (v : Level) : (s.drive .csn v).answers = s.answers := rfl
@[simp] theorem State.drive_csn_draws (v : Level) : (s.drive .csn v).draws = s.draws := rfl
@[simp] theorem State.drive_csn_trace (v : Level) : (s.drive .csn v).trace = s.trace := rfl
@[simp] theorem State.drive_csn_results (v : Level) : (s.drive .csn v).results = s.results := rfl

/-! ## `drawn` -/

@[simp] theorem State.drawn_radio : (s.drawn).radio = s.radio := rfl
@[simp] theorem State.drawn_channel : (s.drawn).channel = s.channel := rfl
@[simp] theorem State.drawn_power : (s.drawn).power = s.power := rfl
@[simp] theorem State.drawn_txAddr : (s.drawn).txAddr = s.txAddr := rfl
@[simp] theorem State.drawn_rxAddr : (s.drawn).rxAddr = s.rxAddr := rfl
@[simp] theorem State.drawn_ce : (s.drawn).ce = s.ce := rfl
@[simp] theorem State.drawn_csn : (s.drawn).csn = s.csn := rfl
@[simp] theorem State.drawn_seq : (s.drawn).seq = s.seq := rfl
@[simp] theorem State.drawn_params : (s.drawn).params = s.params := rfl
@[simp] theorem State.drawn_port : (s.drawn).port = s.port := rfl
@[simp] theorem State.drawn_answers : (s.drawn).answers = s.answers.tail := rfl
@[simp] theorem State.drawn_draws : (s.drawn).draws = s.draws + 1 := rfl
@[simp] theorem State.drawn_trace : (s.drawn).trace = s.trace := rfl
@[simp] theorem State.drawn_results : (s.drawn).results = s.results := rfl

/-! ## `accept` -/

@[simp] theorem State.accept_radio (i : Instr) (rest : Program) : (s.accept i rest).radio = s.radio := rfl
@[simp] theorem State.accept_channel (i : Instr) (rest : Program) : (s.accept i rest).channel = s.channel := rfl
@[simp] theorem State.accept_power (i : Instr) (rest : Program) : (s.accept i rest).power = s.power := rfl
@[simp] theorem State.accept_txAddr (i : Instr) (rest : Program) : (s.accept i rest).txAddr = s.txAddr := rfl
@[simp] theorem State.accept_rxAddr (i : Instr) (rest : Program) : (s.accept i rest).rxAddr = s.rxAddr := rfl
@[simp] theorem State.accept_ce (i : Instr) (rest : Program) : (s.accept i rest).ce = s.ce := rfl
@[simp] theorem State.accept_csn (i : Instr) (rest : Program) : (s.accept i rest).csn = s.csn := rfl
@[simp] theorem State.accept_seq (i : Instr) (rest : Program) : (s.accept i rest).seq = .running i 0 := rfl
@[simp] theorem State.accept_params (i : Instr) (rest : Program) : (s.accept i rest).params = s.params := rfl
@[simp] theorem State.accept_port (i : Instr) (rest : Program) : (s.accept i rest).port = rest := rfl
@[simp] theorem State.accept_answers (i : Instr) (rest : Program) : (s.accept i rest).answers = s.answers := rfl
@[simp] theorem State.accept_draws (i : Instr) (rest : Program) : (s.accept i rest).draws = s.draws := rfl
@[simp] theorem State.accept_trace (i : Instr) (rest : Program) : (s.accept i rest).trace = s.trace := rfl
@[simp] theorem State.accept_results (i : Instr) (rest : Program) : (s.accept i rest).results = s.results := rfl

/-! ## `finish` -/

@[simp] theorem State.finish_radio (r : Result) : (s.finish r).radio = s.radio := rfl
@[simp] theorem State.finish_channel (r : Result) : (s.finish r).channel = s.channel := rfl
@[simp] theorem State.finish_power (r : Result) : (s.finish r).power = s.power := rfl
@[simp] theorem State.finish_txAddr (r : Result) : (s.finish r).txAddr = s.txAddr := rfl
@[simp] theorem State.finish_rxAddr (r : Result) : (s.finish r).rxAddr = s.rxAddr := rfl
@[simp] theorem State.finish_ce (r : Result) : (s.finish r).ce = s.ce := rfl
@[simp] theorem State.finish_csn (r : Result) : (s.finish r).csn = s.csn := rfl
@[simp] theorem State.finish_seq (r : Result) : (s.finish r).seq = .idle := rfl
@[simp] theorem State.finish_params (r : Result) : (s.finish r).params = s.params := rfl
@[simp] theorem State.finish_port (r : Result) : (s.finish r).port = s.port := rfl
@[simp] theorem State.finish_answers (r : Result) : (s.finish r).answers = s.answers := rfl
@[simp] theorem State.finish_draws (r : Result) : (s.finish r).draws = s.draws := rfl
@[simp] theorem State.finish_trace (r : Result) : (s.finish r).trace = s.trace := rfl
@[simp] theorem State.finish_results (r : Result) : (s.finish r).results = s.results ++ [r] := rfl

/-! ## `setRadio` -/

@[simp] theorem State.setRadio_radio (r : RadioState) : (s.setRadio r).radio = r := rfl
@[simp] theorem State.setRadio_channel (r : RadioState) : (s.setRadio r).channel = s.channel := rfl
@[simp] theorem State.setRadio_power (r : RadioState) : (s.setRadio r).power = s.power := rfl
@[simp] theorem State.setRadio_txAddr (r : RadioState) : (s.setRadio r).txAddr = s.txAddr := rfl
@[simp] theorem State.setRadio_rxAddr (r : RadioState) : (s.setRadio r).rxAddr = s.rxAddr := rfl
@[simp] theorem State.setRadio_ce (r : RadioState) : (s.setRadio r).ce = s.ce := rfl
@[simp] theorem State.setRadio_csn (r : RadioState) : (s.setRadio r).csn = s.csn := rfl
@[simp] theorem State.setRadio_seq (r : RadioState) : (s.setRadio r).seq = s.seq := rfl
@[simp] theorem State.setRadio_params (r : RadioState) : (s.setRadio r).params = s.params := rfl
@[simp] theorem State.setRadio_port (r : RadioState) : (s.setRadio r).port = s.port := rfl
@[simp] theorem State.setRadio_answers (r : RadioState) : (s.setRadio r).answers = s.answers := rfl
@[simp] theorem State.setRadio_draws (r : RadioState) : (s.setRadio r).draws = s.draws := rfl
@[simp] theorem State.setRadio_trace (r : RadioState) : (s.setRadio r).trace = s.trace := rfl
@[simp] theorem State.setRadio_results (r : RadioState) : (s.setRadio r).results = s.results := rfl

/-! ## `setChannelPower` -/

@[simp] theorem State.setChannelPower_radio (c p : Int) : (s.setChannelPower c p).radio = s.radio := rfl
@[simp] theorem State.setChannelPower_channel (c p : Int) : (s.setChannelPower c p).channel = c := rfl
@[simp] theorem State.setChannelPower_power (c p : Int) : (s.setChannelPower c p).power = p := rfl
@[simp] theorem State.setChannelPower_txAddr (c p : Int) : (s.setChannelPower c p).txAddr = s.txAddr := rfl
@[simp] theorem State.setChannelPower_rxAddr (c p : Int) : (s.setChannelPower c p).rxAddr = s.rxAddr := rfl
@[simp] theorem State.setChannelPower_ce (c p : Int) : (s.setChannelPower c p).ce = s.ce := rfl
@[simp] theorem State.setChannelPower_csn (c p : Int) : (s.setChannelPower c p).csn = s.csn := rfl
@[simp] theorem State.setChannelPower_seq (c p : Int) : (s.setChannelPower c p).seq = s.seq := rfl
@[simp] theorem State.setChannelPower_params (c p : Int) : (s.setChannelPower c p).params = s.params := rfl
@[simp] theorem State.setChannelPower_port (c p : Int) : (s.setChannelPower c p).port = s.port := rfl
@[simp] theorem State.setChannelPower_answers (c p : Int) : (s.setChannelPower c p).answers = s.answers := rfl
@[simp] theorem State.setChannelPower_draws (c p : Int) : (s.setChannelPower c p).draws = s.draws := rfl
@[simp] theorem State.setChannelPower_trace (c p : Int) : (s.setChannelPower c p).trace = s.trace := rfl
@[simp] theorem State.setChannelPower_results (c p : Int) : (s.setChannelPower c p).results = s.results := rfl

/-! ## `afterFrame` -/

@[simp] theorem State.afterFrame_radio (out : Bytes) : (s.afterFrame out).radio = s.radio := rfl
@[simp] theorem State.afterFrame_channel (out : Bytes) : (s.afterFrame out).channel = s.channel := rfl
@[simp] theorem State.afterFrame_power (out : Bytes) : (s.afterFrame out).power = s.power := rfl
@[simp] theorem State.afterFrame_txAddr (out : Bytes) : (s.afterFrame out).txAddr = s.txAddr := rfl
@[simp] theorem State.afterFrame_rxAddr (out : Bytes) : (s.afterFrame out).rxAddr = s.rxAddr := rfl
@[simp] theorem State.afterFrame_ce (out : Bytes) : (s.afterFrame out).ce = s.ce := rfl
@[simp] theorem State.afterFrame_csn (out : Bytes) : (s.afterFrame out).csn = .high := rfl
@[simp] theorem State.afterFrame_seq (out : Bytes) : (s.afterFrame out).seq = s.seq.advance.advance.advance := rfl
@[simp] theorem State.afterFrame_params (out : Bytes) : (s.afterFrame out).params = s.params := rfl
@[simp] theorem State.afterFrame_port (out : Bytes) : (s.afterFrame out).port = s.port := rfl
@[simp] theorem State.afterFrame_answers (out : Bytes) : (s.afterFrame out).answers = s.answers.tail := rfl
@[simp] theorem State.afterFrame_draws (out : Bytes) : (s.afterFrame out).draws = s.draws + 1 := rfl
@[simp] theorem State.afterFrame_trace (out : Bytes) : (s.afterFrame out).trace = s.trace ++ frameEvents out (s.answerTo out) := rfl
@[simp] theorem State.afterFrame_results (out : Bytes) : (s.afterFrame out).results = s.results := rfl

end Sys2Proof.Machine
end

