-- ==== Sys2Proof/Laws/Ops.lean ====
section
/-! SUPPORT. What the primitives and the propagation of failures do, one equation each. -/

namespace Sys2Proof.Machine

variable {α β : Type}

theorem Proc.bind_of_ok {p : Proc α} {k : α → Proc β} {s t : State} {a : α} (h : p s = (.ok a, t)) :
    Proc.bind p k s = k a t := by
  simp [Proc.bind, h]

theorem Proc.bind_of_error {p : Proc α} {k : α → Proc β} {s t : State} {r : Reason} (h : p s = (.error r, t)) :
    Proc.bind p k s = (.error r, t) := by
  simp [Proc.bind, h]

@[simp] theorem Proc.ret_run (a : α) (s : State) : Proc.ret a s = (.ok a, s) := rfl

@[simp] theorem Proc.fail_run (r : Reason) (s : State) : (Proc.fail r : Proc α) s = (.error r, s) := rfl

@[simp] theorem Proc.seq_nil (s : State) : Proc.seq [] s = (.ok (), s) := rfl

theorem Proc.seq_of_ok {p : Proc Unit} {ps : List (Proc Unit)} {s t : State} (h : p s = (.ok (), t)) :
    Proc.seq (p :: ps) s = Proc.seq ps t :=
  Proc.bind_of_ok h

theorem Proc.seq_of_error {p : Proc Unit} {ps : List (Proc Unit)} {s t : State} {r : Reason}
    (h : p s = (.error r, t)) : Proc.seq (p :: ps) s = (.error r, t) :=
  Proc.bind_of_error h

theorem setLine_run (l : Line) (v : Level) (s : State) : setLine l v s = (.ok (), (s.drive l v).emit (.line l v)) := rfl

theorem wait_run (ms : Nat) (s : State) : wait ms s = (.ok (), s.emit (.wait ms)) := rfl

theorem exchange_run (out : Bytes) (s : State) :
    exchange out s = (.ok (s.answerTo out), s.drawn.emit (.xfer out (s.answerTo out))) := rfl

@[simp] theorem Seq.advance_running (i : Instr) (k : Nat) : (Seq.running i k).advance = .running i (k + 1) := rfl

@[simp] theorem Seq.advance_idle : Seq.idle.advance = .idle := rfl

/-- The environment's answer does not depend on what was observed, presented, or held in the record of R20 but for the
parameters. -/
theorem State.answerTo_congr {s t : State} (out : Bytes) (ha : t.answers = s.answers) (hd : t.draws = s.draws)
    (hp : t.params = s.params) : t.answerTo out = s.answerTo out := by
  simp [State.answerTo, ha, hd, hp]

/-- An answer laid down that the contract allows is the one given. -/
theorem State.answerTo_of_serves {s : State} {a : Answer} {rest : List Answer} {out : Bytes}
    (h : s.answers = a :: rest) (ha : a.serves out) : s.answerTo out = a := by
  obtain ⟨data, rfl, hl⟩ := ha
  simp [State.answerTo, h, Answer.fits, hl]

theorem State.answerTo_of_breaks {s : State} {a : Answer} {rest : List Answer} {out : Bytes}
    (h : s.answers = a :: rest) (ha : a.breaks s.params out) : s.answerTo out = a := by
  simp [State.answerTo, h, ha.1]

theorem frameReply_of_serves {a : Answer} {out : Bytes} (ha : a.serves out) :
    ∃ data, a = .ok data ∧ data.length = out.length ∧ frameReply out a = some data := by
  obtain ⟨data, rfl, h⟩ := ha
  exact ⟨data, rfl, h, by simp [frameReply, h]⟩

theorem frameReply_of_breaks {a : Answer} {p : Params} {out : Bytes} (ha : a.breaks p out) :
    frameReply out a = none := by
  obtain ⟨-, rfl | ⟨data, rfl, h⟩⟩ := ha <;> simp_all [frameReply]

/-- A frame succeeds with an answer that serves it, and only then. -/
theorem frameReply_eq_some {a : Answer} {out data : Bytes} :
    frameReply out a = some data ↔ a = .ok data ∧ data.length = out.length := by
  cases a <;> simp [frameReply]
  grind

/-- An answer the frame fails with is one the contract forbids. -/
theorem not_fits_of_frameReply {a : Answer} {out : Bytes} (h : frameReply out a = none) : a.fits out = false := by
  cases a <;> simp_all [frameReply, Answer.fits]

/-- The environment fails a frame only where the transport can fail. -/
theorem State.canFail_of_frameReply {s : State} {out : Bytes} (h : frameReply out (s.answerTo out) = none) :
    s.params.transportCanFail = true := by
  have hk : frameReply out (freeOk s.draws out) ≠ none := by simp [frameReply, freeOk]
  by_contra hc
  rw [Bool.not_eq_true] at hc
  unfold State.answerTo at h
  split at h
  · simp [freeAnswer, hc, hk] at h
  · simp only [hc, Bool.false_or] at h
    split at h
    · rename_i hf
      simp [not_fits_of_frameReply h] at hf
    · exact hk h

/-- The environment's own failures are ones its contract allows: any failing answer it gives breaks the frame. -/
theorem State.answerTo_breaks {s : State} {out : Bytes} (h : frameReply out (s.answerTo out) = none) :
    (s.answerTo out).breaks s.params out := by
  refine ⟨State.canFail_of_frameReply h, ?_⟩
  cases ha : s.answerTo out with
  | fail => exact .inl rfl
  | ok data =>
    rw [ha] at h
    exact .inr ⟨data, rfl, by simpa [frameReply] using h⟩

end Sys2Proof.Machine
end

