-- ==== Sys2Proof/Laws/Moved.lean ====
section
/-! SUPPORT. What every procedure leaves alone, and how what it emits composes. -/

namespace Sys2Proof.Machine

/-- From `s` a procedure emitted `es` and reached `t`: it used one answer per exchange, and left alone the fields only
the request handlers and the port write (R20). -/
structure Moved (s : State) (es : List Event) (t : State) : Prop where
  trace   : t.trace = s.trace ++ es
  channel : t.channel = s.channel
  power   : t.power = s.power
  txAddr  : t.txAddr = s.txAddr
  rxAddr  : t.rxAddr = s.rxAddr
  params  : t.params = s.params
  port    : t.port = s.port
  results : t.results = s.results
  draws   : t.draws = s.draws + es.countP Event.isXfer
  answers : t.answers = s.answers.drop (es.countP Event.isXfer)

theorem Moved.refl (s : State) : Moved s [] s := by
  constructor <;> simp

theorem Moved.trans {s t u : State} {es fs : List Event} (h : Moved s es t) (k : Moved t fs u) :
    Moved s (es ++ fs) u := by
  constructor <;> simp [k.trace, k.channel, k.power, k.txAddr, k.rxAddr, k.params, k.port, k.results, k.draws, k.answers,
    h.trace, h.channel, h.power, h.txAddr, h.rxAddr, h.params, h.port, h.results, h.draws, h.answers, Nat.add_assoc]

theorem Moved.setLine (s : State) (l : Line) (v : Level) : Moved s [.line l v] (Machine.setLine l v s).2 := by
  cases l <;> constructor <;> simp [Machine.setLine, Event.isXfer]

theorem Moved.wait (s : State) (ms : Nat) : Moved s [.wait ms] (Machine.wait ms s).2 := by
  constructor <;> simp [Machine.wait, Event.isXfer]

theorem Moved.setRadio (s : State) (r : RadioState) : Moved s [] (s.setRadio r) := by
  constructor <;> simp

theorem Moved.afterFrame (s : State) (out : Bytes) :
    Moved s (frameEvents out (s.answerTo out)) (s.afterFrame out) := by
  constructor <;> simp [frameEvents, List.countP_cons, Event.isXfer]

/-- What a procedure emitted is what the trace gained, and nothing else can be. -/
theorem Did.of_moved {s t : State} {es : List Event} (h : Moved s es t) (r : Result) : Did s es r (t.finish r) :=
  ⟨by simp [h.trace], by simp [h.results]⟩

/-- The triple of an instruction is determined. -/
theorem Did.unique {s t : State} {es fs : List Event} {r q : Result} (h : Did s es r t) (k : Did s fs q t) :
    es = fs ∧ r = q := by
  have h1 := h.trace.symm.trans k.trace
  have h2 := h.results.symm.trans k.results
  simp at h1 h2
  exact ⟨h1, h2⟩

end Sys2Proof.Machine
end

