-- ==== Sys2Proof/Laws/RegisterAccess.lean ====
section
/-! SUPPORT. One equation for the frame (R120) and one for each RegisterAccess primitive (R121 to R129). -/

namespace Sys2Proof.Machine

/-- What a frame's procedure goes on with: the reply, or Failure(Transport). -/
def frameOutcome {α : Type} (f : Bytes → α) (out : Bytes) (s : State) : Except Reason α × State :=
  (match frameReply out (s.answerTo out) with
   | some data => .ok (f data)
   | none => .error .transport, s.afterFrame out)

theorem frame_run (out : Bytes) (s : State) : RA.frame out s = frameOutcome id out s := by
  have h : ∀ a, s.answerTo out = a → RA.frame out s = frameOutcome id out s := by
    intro a ha
    simp only [RA.frame, Proc.bind, setLine_run, exchange_run, frameOutcome]
    have hc : ((s.drive .csn .low).emit (.line .csn .low)).answerTo out = a := by
      rw [← ha]; exact State.answerTo_congr out rfl rfl rfl
    rw [hc, ha]
    cases a with
    | fail => simp [frameReply, State.afterFrame, ha, State.emit, State.drive, State.drawn, frameEvents, Level.onLine]
    | ok data =>
      by_cases hl : data.length = out.length <;>
        simp [hl, frameReply, State.afterFrame, ha, State.emit, State.drive, State.drawn, frameEvents, Level.onLine]
  exact h _ rfl

theorem frame_bind_run {α : Type} (f : Bytes → α) (out : Bytes) (s : State) :
    Proc.bind (RA.frame out) (fun data => Proc.ret (f data)) s = frameOutcome f out s := by
  simp only [Proc.bind, frame_run, frameOutcome]
  cases frameReply out (s.answerTo out) <;> rfl

theorem frameOutcome_of_serves {α : Type} (f : Bytes → α) {out : Bytes} {s : State} {a : Answer} {rest : List Answer}
    {data : Bytes} (h : s.answers = a :: rest) (ha : a = .ok data) (hl : data.length = out.length) :
    frameOutcome f out s = (.ok (f data), s.afterFrame out) ∧ s.answerTo out = a := by
  have e := State.answerTo_of_serves h ⟨data, ha, hl⟩
  refine ⟨?_, e⟩
  simp only [frameOutcome, e, ha]
  simp [frameReply, hl]

theorem frameOutcome_of_breaks {α : Type} (f : Bytes → α) {out : Bytes} {s : State} {a : Answer} {rest : List Answer}
    (h : s.answers = a :: rest) (ha : a.breaks s.params out) :
    frameOutcome f out s = (.error .transport, s.afterFrame out) ∧ s.answerTo out = a := by
  have e := State.answerTo_of_breaks h ha
  refine ⟨?_, e⟩
  simp [frameOutcome, e, frameReply_of_breaks ha]

/-- The only two things a frame can do, whatever the environment answers. -/
theorem frameOutcome_cases {α : Type} (f : Bytes → α) (out : Bytes) (s : State) :
    (∃ data, data.length = out.length ∧ s.answerTo out = .ok data ∧
      frameOutcome f out s = (.ok (f data), s.afterFrame out)) ∨
    ((s.answerTo out).breaks s.params out ∧ frameOutcome f out s = (.error .transport, s.afterFrame out)) := by
  cases h : frameReply out (s.answerTo out) with
  | some data =>
    obtain ⟨ha, hl⟩ := frameReply_eq_some.1 h
    exact .inl ⟨data, hl, ha, by simp [frameOutcome, h]⟩
  | none => exact .inr ⟨State.answerTo_breaks h, by simp [frameOutcome, h]⟩

theorem cmdRead_eq (a : Byte) : cmdRead a = a := by
  simp [cmdRead]

theorem read_run {a : Byte} (ha : a ≤ 0x1F) (s : State) :
    RA.read a s = frameOutcome (fun data => data.getD 1 0) [a, s.params.dummyByte] s := by
  have h : ¬ 0x1F < a := by simpa using ha
  simp only [RA.read, if_neg h, cmdRead_eq]
  exact frame_bind_run _ _ s

theorem write_run {a : Byte} (ha : a ≤ 0x1F) (v : Byte) (s : State) :
    RA.write a v s = frameOutcome (fun _ => ()) [cmdWrite a, v] s := by
  have h : ¬ 0x1F < a := by simpa using ha
  simp only [RA.write, if_neg h]
  exact frame_bind_run _ _ s

theorem readMulti_run {a : Byte} (ha : a ≤ 0x1F) {n : Int} (h1 : 1 ≤ n) (h2 : n ≤ 32) (s : State) :
    RA.readMulti a n s = frameOutcome List.tail (a :: List.replicate n.toNat s.params.dummyByte) s := by
  have h : ¬ (0x1F < a ∨ n < 1 ∨ 32 < n) := by
    rintro (h | h | h)
    · exact absurd h (by simpa using ha)
    · omega
    · omega
  simp only [RA.readMulti, if_neg h, cmdRead_eq]
  exact frame_bind_run _ _ s

theorem writeMulti_run {a : Byte} (ha : a ≤ 0x1F) {bs : Bytes} (h1 : 1 ≤ bs.length) (h2 : bs.length ≤ 32) (s : State) :
    RA.writeMulti a bs s = frameOutcome (fun _ => ()) (cmdWrite a :: bs) s := by
  have h : ¬ (0x1F < a ∨ bs.length < 1 ∨ 32 < bs.length) := by
    rintro (h | h | h)
    · exact absurd h (by simpa using ha)
    · omega
    · omega
  simp only [RA.writeMulti, if_neg h]
  exact frame_bind_run _ _ s

theorem flushTx_run (s : State) : RA.flushTx s = frameOutcome (fun _ => ()) [0xE1] s := frame_bind_run _ _ s

theorem flushRx_run (s : State) : RA.flushRx s = frameOutcome (fun _ => ()) [0xE2] s := frame_bind_run _ _ s

theorem status_run (s : State) : RA.status s = frameOutcome (fun data => data.getD 0 0) [0xFF] s := frame_bind_run _ _ s

theorem writePayload_run {q : Bytes} (h : q.length = 32) (s : State) :
    RA.writePayload q s = frameOutcome (fun _ => ()) (0xA0 :: q) s := by
  have h' : ¬ q.length ≠ 32 := by simpa using h
  simp only [RA.writePayload, if_neg h']
  exact frame_bind_run _ _ s

theorem readPayload_run (s : State) :
    RA.readPayload s = frameOutcome List.tail (0x61 :: List.replicate 32 s.params.dummyByte) s :=
  frame_bind_run _ _ s

/-- `MemRead` of one byte is the single-byte read, of any number the multi-byte one (R10). -/
theorem memRead_one (a : Byte) : RA.memRead a 1 = Proc.bind (RA.read a) fun v => Proc.ret [v] := rfl

/-- `MemWrite` of one byte is the single-byte write (R10). -/
theorem memWrite_one (a b : Byte) : RA.memWrite a [b] = RA.write a b := rfl

@[simp] theorem wire32_length (p : Bytes) : (wire32 p).length = 32 := by
  simp [wire32, maxPayload]
  omega

end Sys2Proof.Machine
end

