-- ==== Sys2Proof/Laws/Frames.lean ====
section
/-! SUPPORT. Procedures that are frames one after another: what they do whatever the environment answers, and what they do
with given answers. -/

namespace Sys2Proof.Machine

/-- From `s` a procedure emitted `es` and reached `t`, with RadioState and lines as said. -/
structure Reached (s : State) (es : List Event) (rd : RadioState) (ce csn : LineLevel) (t : State) : Prop where
  moved : Moved s es t
  radio : t.radio = rd
  ceIs  : t.ce = ce
  csnIs : t.csn = csn

theorem Reached.refl (s : State) : Reached s [] s.radio s.ce s.csn s := ⟨Moved.refl s, rfl, rfl, rfl⟩

theorem Reached.trans {s t u : State} {es fs : List Event} {rd rd' : RadioState} {ce csn ce' csn' : LineLevel}
    (h : Reached s es rd ce csn t) (k : Reached t fs rd' ce' csn' u) : Reached s (es ++ fs) rd' ce' csn' u :=
  ⟨h.moved.trans k.moved, k.radio, k.ceIs, k.csnIs⟩

theorem Reached.ceLine (s : State) (v : Level) :
    Reached s [.line .ce v] s.radio v.onLine s.csn ((s.drive .ce v).emit (.line .ce v)) :=
  ⟨Moved.setLine s .ce v, rfl, rfl, rfl⟩

theorem Reached.csnLine (s : State) (v : Level) :
    Reached s [.line .csn v] s.radio s.ce v.onLine ((s.drive .csn v).emit (.line .csn v)) :=
  ⟨Moved.setLine s .csn v, rfl, rfl, rfl⟩

theorem Reached.wait (s : State) (ms : Nat) : Reached s [.wait ms] s.radio s.ce s.csn (s.emit (.wait ms)) :=
  ⟨Moved.wait s ms, rfl, rfl, rfl⟩

theorem Reached.setRadio (s : State) (r : RadioState) : Reached s [] r s.ce s.csn (s.setRadio r) :=
  ⟨Moved.setRadio s r, rfl, rfl, rfl⟩

theorem Reached.afterFrame {s : State} {out : Bytes} {a : Answer} (h : s.answerTo out = a) :
    Reached s (frameEvents out a) s.radio s.ce .high (s.afterFrame out) :=
  ⟨h ▸ Moved.afterFrame s out, rfl, rfl, rfl⟩

/-- The whole state in which an instruction ends, from what its procedure emitted. -/
theorem Reached.finish_eq {s t : State} {es : List Event} {rd : RadioState} {ce csn : LineLevel}
    (h : Reached s es rd ce csn t) (r : Result) :
    t.finish r =
      { s with
        radio := rd
        ce := ce
        csn := csn
        seq := .idle
        answers := s.answers.drop (es.countP Event.isXfer)
        draws := s.draws + es.countP Event.isXfer
        trace := s.trace ++ es
        results := s.results ++ [r] } := by
  ext1 <;> simp [h.radio, h.ceIs, h.csnIs, h.moved.trace, h.moved.channel, h.moved.power, h.moved.txAddr, h.moved.rxAddr,
    h.moved.params, h.moved.port, h.moved.results, h.moved.draws, h.moved.answers]

@[simp] theorem countP_frameEvents (out : Bytes) (a : Answer) : (frameEvents out a).countP Event.isXfer = 1 := by
  simp [frameEvents, List.countP_cons, Event.isXfer]

@[simp] theorem frameEvents_length (out : Bytes) (a : Answer) : (frameEvents out a).length = 3 := rfl

@[simp] theorem framesEvents_nil : framesEvents [] [] = [] := rfl

@[simp] theorem framesEvents_cons (out : Bytes) (outs : List Bytes) (a : Answer) (as : List Answer) :
    framesEvents (out :: outs) (a :: as) = frameEvents out a ++ framesEvents outs as := rfl

/-- The answers `as` let every one of the frames `outs` succeed. -/
abbrev AllServe (outs : List Bytes) (as : List Answer) : Prop := List.Forall₂ (fun out a => Answer.serves a out) outs as

theorem countP_framesEvents {outs : List Bytes} {as : List Answer} (h : AllServe outs as) :
    (framesEvents outs as).countP Event.isXfer = as.length := by
  induction h with
  | nil => rfl
  | cons _ _ ih => simp [ih, Nat.add_comm]

theorem framesEvents_length {outs : List Bytes} {as : List Answer} (h : AllServe outs as) :
    (framesEvents outs as).length = 3 * outs.length := by
  induction h with
  | nil => rfl
  | cons _ _ ih => simp [ih]; omega

/-- The procedure is the frame of `out`, and nothing more. -/
def IsFrame (p : Proc Unit) (out : Bytes) : Prop := ∀ s, p s = frameOutcome (fun _ => ()) out s

/-- Frames one after another, whatever is answered: all succeed, or the first that fails is the last. -/
theorem seq_frames_cases {ps : List (Proc Unit)} {outs : List Bytes} (h : List.Forall₂ IsFrame ps outs) :
    ∀ s : State, s.csn = .high →
      (∃ as t, AllServe outs as ∧ Proc.seq ps s = (.ok (), t) ∧
        Reached s (framesEvents outs as) s.radio s.ce .high t) ∨
      (∃ before out after oks bad t, outs = before ++ out :: after ∧ AllServe before oks ∧ bad.breaks s.params out ∧
        Proc.seq ps s = (.error .transport, t) ∧
        Reached s (framesEvents before oks ++ frameEvents out bad) s.radio s.ce .high t) := by
  induction h with
  | nil => intro s hs; exact .inl ⟨[], s, .nil, rfl, by simpa [hs] using Reached.refl s⟩
  | @cons p out ps outs hp _ ih =>
    intro s hs
    obtain ⟨data, hl, ha, hr⟩ | ⟨hb, hr⟩ := frameOutcome_cases (fun _ => ()) out s
    · have step := Reached.afterFrame ha
      have e : Proc.seq (p :: ps) s = Proc.seq ps (s.afterFrame out) := Proc.seq_of_ok ((hp s).trans hr)
      obtain ⟨as, t, hs', ht, hR⟩ | ⟨before, out', after, oks, bad, t, ho, hs', hbad, ht, hR⟩ :=
        ih (s.afterFrame out) rfl
      · exact .inl ⟨_ :: as, t, .cons ⟨data, rfl, hl⟩ hs', e.trans ht, step.trans hR⟩
      · refine .inr ⟨out :: before, out', after, _ :: oks, bad, t, by simp [ho], .cons ⟨data, rfl, hl⟩ hs', hbad,
          e.trans ht, ?_⟩
        simpa [List.append_assoc] using step.trans hR
    · exact .inr ⟨[], out, outs, [], _, _, rfl, .nil, hb, Proc.seq_of_error ((hp s).trans hr),
        by simpa using Reached.afterFrame rfl⟩

/-- Frames one after another, each answered so that it succeeds. -/
theorem seq_frames_serve {ps : List (Proc Unit)} {outs : List Bytes} (h : List.Forall₂ IsFrame ps outs) :
    ∀ (as : List Answer) (s : State) (rest : List Answer), s.csn = .high → s.answers = as ++ rest → AllServe outs as →
      ∃ t, Proc.seq ps s = (.ok (), t) ∧ Reached s (framesEvents outs as) s.radio s.ce .high t := by
  induction h with
  | nil =>
    intro as s rest hs _ hS
    cases hS
    exact ⟨s, rfl, by simpa [hs] using Reached.refl s⟩
  | @cons p out ps outs hp _ ih =>
    intro as s rest hs hA hS
    cases hS with
    | @cons _ a _ as ha hS =>
      obtain ⟨data, had, hl, -⟩ := frameReply_of_serves ha
      obtain ⟨hr, e⟩ := frameOutcome_of_serves (fun _ => ()) (rest := as ++ rest) (by simpa using hA) had hl
      obtain ⟨t, ht, hR⟩ := ih as (s.afterFrame out) rest rfl (by simp [hA]) hS
      exact ⟨t, (Proc.seq_of_ok ((hp s).trans hr)).trans ht, (Reached.afterFrame e).trans hR⟩

/-- Frames one after another, the first failing one answered after all before it succeed. -/
theorem seq_frames_break {ps : List (Proc Unit)} {outs : List Bytes} (h : List.Forall₂ IsFrame ps outs) :
    ∀ (before after : List Bytes) (out : Bytes) (oks rest : List Answer) (bad : Answer) (s : State),
      outs = before ++ out :: after → s.answers = oks ++ bad :: rest → AllServe before oks → bad.breaks s.params out →
      ∃ t, Proc.seq ps s = (.error .transport, t) ∧
        Reached s (framesEvents before oks ++ frameEvents out bad) s.radio s.ce .high t := by
  induction h with
  | nil => intro before after out oks rest bad s ho; simp at ho
  | @cons p o ps outs hp _ ih =>
    intro before after out oks rest bad s ho hA hS hb
    cases before with
    | nil =>
      cases hS
      obtain ⟨rfl, rfl⟩ : o = out ∧ outs = after := by simpa using ho
      obtain ⟨hr, e⟩ := frameOutcome_of_breaks (fun _ => ()) (by simpa using hA) hb
      exact ⟨_, Proc.seq_of_error ((hp s).trans hr), by simpa using Reached.afterFrame e⟩
    | cons b before =>
      cases hS with
      | @cons _ a _ oks ha hS =>
        obtain ⟨rfl, ho'⟩ : o = b ∧ outs = before ++ out :: after := by simpa using ho
        obtain ⟨data, had, hl, -⟩ := frameReply_of_serves ha
        obtain ⟨hr, e⟩ := frameOutcome_of_serves (fun _ => ()) (rest := oks ++ bad :: rest) (by simpa using hA) had hl
        obtain ⟨t, ht, hR⟩ := ih before after out oks rest bad (s.afterFrame o) ho' (by simp [hA]) hS hb
        exact ⟨t, (Proc.seq_of_ok ((hp s).trans hr)).trans ht, by
          simpa [List.append_assoc] using (Reached.afterFrame e).trans hR⟩

end Sys2Proof.Machine
end

