-- ==== Sys2Proof/Laws/Procedures.lean ====
section
/-! SUPPORT. Everything each procedure of ModeController, PacketTransceiver and RadioConfig can do, whatever the environment
answers (R161 to R163, R190, R192, R231), and what the poll does with given answers. -/

namespace Sys2Proof.Machine

/-- A frame with the events it emits: it succeeds with an answer of its length, or breaks. -/
theorem frame_cases {α : Type} (f : Bytes → α) (out : Bytes) (s : State) :
    (∃ data, data.length = out.length ∧ frameOutcome f out s = (.ok (f data), s.afterFrame out) ∧
      Reached s (frameEvents out (.ok data)) s.radio s.ce .high (s.afterFrame out)) ∨
    (∃ bad, bad.breaks s.params out ∧ frameOutcome f out s = (.error .transport, s.afterFrame out) ∧
      Reached s (frameEvents out bad) s.radio s.ce .high (s.afterFrame out)) := by
  obtain ⟨data, hl, ha, hr⟩ | ⟨hb, hr⟩ := frameOutcome_cases f out s
  · exact .inl ⟨data, hl, hr, Reached.afterFrame ha⟩
  · exact .inr ⟨_, hb, hr, Reached.afterFrame rfl⟩

theorem Answer.serves_ok {data out : Bytes} (h : data.length = out.length) : (Answer.ok data).serves out :=
  ⟨data, rfl, h⟩

/-! ## The writes the procedures make -/

theorem write_reg_run (r : Reg) (v : Byte) (s : State) :
    RA.write r.addr v s = frameOutcome (fun _ => ()) [0x20 ||| r.addr, v] s := by
  cases r <;> exact write_run (by decide) v s

theorem writeMulti_reg_run (r : Reg) (a : Address) (s : State) :
    RA.writeMulti r.addr a.toList s = frameOutcome (fun _ => ()) ((0x20 ||| r.addr) :: a.toList) s := by
  cases r <;> exact writeMulti_run (by decide) (by simp) (by simp) s

theorem transmit_payload_run (p : Bytes) (s : State) :
    RA.writePayload (wire32 p) s = frameOutcome (fun _ => ()) (0xA0 :: wire32 p) s :=
  writePayload_run (wire32_length p) s

/-- The twelve steps of MC.INITIALIZE after its wait are the twelve frames of R161. -/
theorem initFrames_isFrame (s : State) :
    List.Forall₂ IsFrame
      [RA.write Reg.config.addr configInit,
       RA.write Reg.setupAw.addr setupAw5,
       RA.write Reg.rfCh.addr (channelByte s.channel),
       RA.write Reg.rfSetup.addr (initSetup s.params.rfSetupBase s.power),
       RA.writeMulti Reg.txAddr.addr s.txAddr.toList,
       RA.writeMulti Reg.rxAddrP0.addr s.rxAddr.toList,
       RA.write Reg.enAa.addr pipe0,
       RA.write Reg.enRxaddr.addr pipe0,
       RA.write Reg.rxPwP0.addr rxPayloadWidth,
       RA.write Reg.status.addr allFlags,
       RA.flushTx,
       RA.flushRx]
      (initFrames s) := by
  refine .cons (fun t => write_reg_run .config _ t) (.cons (fun t => write_reg_run .setupAw _ t)
    (.cons (fun t => write_reg_run .rfCh _ t) (.cons (fun t => write_reg_run .rfSetup _ t)
    (.cons (fun t => writeMulti_reg_run .txAddr _ t) (.cons (fun t => writeMulti_reg_run .rxAddrP0 _ t)
    (.cons (fun t => write_reg_run .enAa _ t) (.cons (fun t => write_reg_run .enRxaddr _ t)
    (.cons (fun t => write_reg_run .rxPwP0 _ t) (.cons (fun t => write_reg_run .status _ t)
    (.cons (fun t => flushTx_run t) (.cons (fun t => flushRx_run t) .nil)))))))))))

/-! ## ModeController -/

/-- The state in which INIT sends its first frame. -/
def State.initSetup (s : State) : State :=
  (((s.drive .ce .low).emit (.line .ce .low)).drive .csn .high |>.emit (.line .csn .high)).emit (.wait 100)

theorem initSetup_reached (s : State) : Reached s initSetupEvents s.radio .low .high s.initSetup :=
  ((Reached.ceLine s .low).trans (Reached.csnLine _ .high)).trans (Reached.wait _ 100)

/-- MC.INITIALIZE: all twelve frames, or those up to the first failing one (R161). -/
theorem initialize_cases (s : State) :
    (∃ as t, AllServe (initFrames s) as ∧ MC.initialize s = (.ok (), t) ∧
      Reached s (initSetupEvents ++ framesEvents (initFrames s) as) s.radio .low .high t) ∨
    (∃ before out after oks bad t, initFrames s = before ++ out :: after ∧ AllServe before oks ∧
      bad.breaks s.params out ∧ MC.initialize s = (.error .transport, t) ∧
      Reached s (initSetupEvents ++ (framesEvents before oks ++ frameEvents out bad)) s.radio .low .high t) := by
  have setup := initSetup_reached s
  obtain ⟨as, t, hS, ht, hR⟩ | ⟨before, out, after, oks, bad, t, ho, hS, hb, ht, hR⟩ :=
    seq_frames_cases (initFrames_isFrame s) s.initSetup rfl
  · exact .inl ⟨as, t, hS, ht, setup.trans hR⟩
  · exact .inr ⟨before, out, after, oks, bad, t, ho, hS, hb, ht, setup.trans hR⟩

/-- MC.ENTER_TRANSMIT (R162). -/
theorem enterTransmit_cases (s : State) :
    (∃ data t, data.length = 2 ∧ MC.enterTransmit s = (.ok (), t) ∧
      Reached s ([.line .ce .low] ++ frameEvents [0x20, 0x0A] (.ok data) ++ [.wait 2]) .transmitting .low .high t) ∨
    (∃ bad t, bad.breaks s.params [0x20, 0x0A] ∧ MC.enterTransmit s = (.error .transport, t) ∧
      Reached s ([.line .ce .low] ++ frameEvents [0x20, 0x0A] bad) s.radio .low .high t) := by
  have h0 := Reached.ceLine s .low
  have hw := write_reg_run .config configTransmit ((s.drive .ce .low).emit (.line .ce .low))
  obtain ⟨data, hl, hr, hR⟩ | ⟨bad, hb, hr, hR⟩ :=
    frame_cases (fun _ => ()) [0x20 ||| Reg.config.addr, configTransmit] ((s.drive .ce .low).emit (.line .ce .low))
  · refine .inl ⟨data, _, hl, ?_, ((h0.trans hR).trans (Reached.wait _ 2)).trans (Reached.setRadio _ .transmitting)⟩
    exact (Proc.seq_of_ok rfl).trans ((Proc.seq_of_ok (hw.trans hr)).trans rfl)
  · exact .inr ⟨bad, _, hb, (Proc.seq_of_ok rfl).trans (Proc.seq_of_error (hw.trans hr)), h0.trans hR⟩

/-- MC.ENTER_RECEIVE (R163). -/
theorem enterReceive_cases (s : State) :
    (∃ data t, data.length = 2 ∧ MC.enterReceive s = (.ok (), t) ∧
      Reached s ([.line .ce .low] ++ frameEvents [0x20, 0x0B] (.ok data) ++ [.wait 2, .line .ce .high])
        .listening .high .high t) ∨
    (∃ bad t, bad.breaks s.params [0x20, 0x0B] ∧ MC.enterReceive s = (.error .transport, t) ∧
      Reached s ([.line .ce .low] ++ frameEvents [0x20, 0x0B] bad) s.radio .low .high t) := by
  have h0 := Reached.ceLine s .low
  have hw := write_reg_run .config configReceive ((s.drive .ce .low).emit (.line .ce .low))
  obtain ⟨data, hl, hr, hR⟩ | ⟨bad, hb, hr, hR⟩ :=
    frame_cases (fun _ => ()) [0x20 ||| Reg.config.addr, configReceive] ((s.drive .ce .low).emit (.line .ce .low))
  · refine .inl ⟨data, _, hl, (Proc.seq_of_ok rfl).trans ((Proc.seq_of_ok (hw.trans hr)).trans rfl), ?_⟩
    have h := (((h0.trans hR).trans (Reached.wait _ 2)).trans (Reached.ceLine _ .high)).trans
      (Reached.setRadio _ .listening)
    rw [List.append_nil, List.append_assoc _ [Event.wait _]] at h
    exact h
  · exact .inr ⟨bad, _, hb, (Proc.seq_of_ok rfl).trans (Proc.seq_of_error (hw.trans hr)), h0.trans hR⟩

/-! ## PacketTransceiver -/

theorem txFlags_eq (v : Byte) : txFlags v = v &&& 0x30 := rfl

/-- The result of a flagged poll whose clear succeeded: "success iff TX-done was the bit set" (R190). -/
def pollResult (v : Byte) : Except Reason Unit := if v &&& 0x20 = 0 then .error .maxRetries else .ok ()

/-- A flagged poll's clear: it succeeds and TX_DS decides, or its frame breaks (R190). -/
theorem pollEnd_cases (v : Byte) (s : State) :
    (∃ data, data.length = 2 ∧ PT.pollEnd v s = (pollResult v, s.afterFrame [0x27, v &&& 0x30]) ∧
      Reached s (frameEvents [0x27, v &&& 0x30] (.ok data)) s.radio s.ce .high (s.afterFrame [0x27, v &&& 0x30])) ∨
    (∃ bad, bad.breaks s.params [0x27, v &&& 0x30] ∧
      PT.pollEnd v s = (.error .transport, s.afterFrame [0x27, v &&& 0x30]) ∧
      Reached s (frameEvents [0x27, v &&& 0x30] bad) s.radio s.ce .high (s.afterFrame [0x27, v &&& 0x30])) := by
  have hw := write_reg_run .status (txFlags v) s
  obtain ⟨data, hl, hr, hR⟩ | ⟨bad, hb, hr, hR⟩ := frame_cases (fun _ => ()) [0x27, v &&& 0x30] s
  · refine .inl ⟨data, hl, (Proc.bind_of_ok (hw.trans hr)).trans ?_, hR⟩
    by_cases h : v &&& 0x20 = 0
    · have h' : flagSet v txDs = false := by simpa [flagSet, txDs] using h
      simp only [h', pollResult, if_pos h]; rfl
    · have h' : flagSet v txDs = true := by simpa [flagSet, txDs] using h
      simp only [h', pollResult, if_neg h]; rfl
  · exact .inr ⟨bad, hb, Proc.bind_of_error (hw.trans hr), hR⟩

@[simp] theorem pollEvents_nil : pollEvents [] = [] := rfl

theorem pollEvents_cons (v : Byte) (us : List Byte) :
    pollEvents (v :: us) = frameEvents [0xFF] (.ok [v]) ++ [.wait 1] ++ pollEvents us := rfl

@[simp] theorem countP_pollEvents (us : List Byte) : (pollEvents us).countP Event.isXfer = us.length := by
  induction us with
  | nil => rfl
  | cons v us ih =>
    rw [pollEvents_cons, List.countP_append, List.countP_append, countP_frameEvents, ih, List.length_cons]
    simp [Event.isXfer]; omega

@[simp] theorem pollEvents_length (us : List Byte) : (pollEvents us).length = 4 * us.length := by
  induction us with
  | nil => rfl
  | cons v us ih => simp [pollEvents_cons, ih]; omega

theorem Unflagged.nil : Unflagged [] := by simp [Unflagged]

theorem Unflagged.cons {v : Byte} {us : List Byte} (h : v &&& 0x30 = 0) (hu : Unflagged us) : Unflagged (v :: us) := by
  intro w hw
  obtain rfl | hw := List.mem_cons.1 hw
  · exact h
  · exact hu w hw

/-- A poll that saw neither flag is followed by its wait and the remaining polls (R190). -/
theorem poll_unflagged {n : Nat} {v : Byte} {s t : State} (hs : RA.status s = (.ok v, t)) (hv : v &&& 0x30 = 0) :
    PT.poll (n + 1) s = PT.poll n (t.emit (.wait 1)) := by
  refine (Proc.bind_of_ok hs).trans ?_
  simp only [txFlags_eq, hv]
  exact Proc.bind_of_ok rfl

/-- A poll that saw a flag ends the loop (R190). -/
theorem poll_flagged {n : Nat} {v : Byte} {s t : State} (hs : RA.status s = (.ok v, t)) (hv : v &&& 0x30 ≠ 0) :
    PT.poll (n + 1) s = PT.pollEnd v t := by
  have h : (txFlags v != 0) = true := by simpa [txFlags_eq] using hv
  refine (Proc.bind_of_ok hs).trans ?_
  simp only [h, if_true]

/-- What the poll loop emitted and returned (R190, R191). -/
inductive PollRun (p : Params) (n : Nat) : List Event → Except Reason Unit → Prop where
  | flagged (us : List Byte) (v : Byte) (data : Bytes) (hu : Unflagged us) (hn : us.length < n) (hv : v &&& 0x30 ≠ 0)
      (hl : data.length = 2) :
      PollRun p n (pollEvents us ++ frameEvents [0xFF] (.ok [v]) ++ frameEvents [0x27, v &&& 0x30] (.ok data))
        (pollResult v)
  | timeout (us : List Byte) (hu : Unflagged us) (hn : us.length = n) :
      PollRun p n (pollEvents us) (.error .timeout)
  | badPoll (us : List Byte) (bad : Answer) (hu : Unflagged us) (hn : us.length < n) (hb : bad.breaks p [0xFF]) :
      PollRun p n (pollEvents us ++ frameEvents [0xFF] bad) (.error .transport)
  | badClear (us : List Byte) (v : Byte) (bad : Answer) (hu : Unflagged us) (hn : us.length < n) (hv : v &&& 0x30 ≠ 0)
      (hb : bad.breaks p [0x27, v &&& 0x30]) :
      PollRun p n (pollEvents us ++ frameEvents [0xFF] (.ok [v]) ++ frameEvents [0x27, v &&& 0x30] bad)
        (.error .transport)

theorem PollRun.cons {p : Params} {n : Nat} {es : List Event} {r : Except Reason Unit} {v : Byte} (hv : v &&& 0x30 = 0)
    (h : PollRun p n es r) : PollRun p (n + 1) (frameEvents [0xFF] (.ok [v]) ++ [.wait 1] ++ es) r := by
  cases h with
  | flagged us w data hu hn hw hl =>
    simpa [pollEvents_cons, List.append_assoc] using
      PollRun.flagged (p := p) (n := n + 1) (v :: us) w data (hu.cons hv) (by simpa using hn) hw hl
  | timeout us hu hn =>
    simpa [pollEvents_cons, List.append_assoc] using
      PollRun.timeout (p := p) (n := n + 1) (v :: us) (hu.cons hv) (by simpa using hn)
  | badPoll us bad hu hn hb =>
    simpa [pollEvents_cons, List.append_assoc] using
      PollRun.badPoll (p := p) (n := n + 1) (v :: us) bad (hu.cons hv) (by simpa using hn) hb
  | badClear us w bad hu hn hw hb =>
    simpa [pollEvents_cons, List.append_assoc] using
      PollRun.badClear (p := p) (n := n + 1) (v :: us) w bad (hu.cons hv) (by simpa using hn) hw hb

/-- The poll loop, whatever is answered: it ends at the first flagged poll, at the first failing frame, or when its polls
are used up (R190, R191). -/
theorem poll_cases (n : Nat) : ∀ s : State, s.csn = .high →
    ∃ es r t, PollRun s.params n es r ∧ PT.poll n s = (r, t) ∧ Reached s es s.radio s.ce .high t := by
  induction n with
  | zero => intro s hs; exact ⟨_, _, s, .timeout [] .nil rfl, rfl, by simpa [hs] using Reached.refl s⟩
  | succ n ih =>
    intro s hs
    have hst := status_run s
    obtain ⟨data, hl, hr, hR⟩ | ⟨bad, hb, hr, hR⟩ := frame_cases (fun data => data.getD 0 0) [0xFF] s
    · obtain ⟨v, rfl⟩ : ∃ v, data = [v] := List.length_eq_one_iff.1 hl
      have hst' := hst.trans hr
      by_cases hv : v &&& 0x30 = 0
      · obtain ⟨es, r, t, hP, ht, hR'⟩ := ih ((s.afterFrame [0xFF]).emit (.wait 1)) rfl
        exact ⟨_, r, t, hP.cons hv, (poll_unflagged hst' hv).trans ht, (hR.trans (Reached.wait _ 1)).trans hR'⟩
      · obtain ⟨data, hl', hr', hR'⟩ | ⟨bad, hb', hr', hR'⟩ := pollEnd_cases v (s.afterFrame [0xFF])
        · exact ⟨_, _, _, .flagged [] v data .nil (by simp) hv hl', (poll_flagged hst' hv).trans hr', hR.trans hR'⟩
        · exact ⟨_, _, _, .badClear [] v bad .nil (by simp) hv hb', (poll_flagged hst' hv).trans hr', hR.trans hR'⟩
    · exact ⟨_, _, _, .badPoll [] bad .nil (by simp) hb, Proc.bind_of_error (hst.trans hr), hR⟩

/-- The poll loop goes through unflagged polls with the answers given for them (R190). -/
theorem poll_unflagged_run (us : List Byte) : ∀ (n : Nat) (s : State) (rest : List Answer), s.csn = .high → Unflagged us →
    s.answers = pollAnswers us ++ rest →
    ∃ t, PT.poll (n + us.length) s = PT.poll n t ∧ Reached s (pollEvents us) s.radio s.ce .high t := by
  induction us with
  | nil => intro n s rest hs _ _; exact ⟨s, rfl, by simpa [hs] using Reached.refl s⟩
  | cons v us ih =>
    intro n s rest hs hu hA
    have hv : v &&& 0x30 = 0 := hu v (by simp)
    obtain ⟨hr, e⟩ := frameOutcome_of_serves (fun data => data.getD 0 0) (out := [0xFF]) (s := s)
      (rest := pollAnswers us ++ rest) (data := [v]) (by simpa [pollAnswers] using hA) rfl rfl
    obtain ⟨t, ht, hR⟩ := ih n ((s.afterFrame [0xFF]).emit (.wait 1)) rest rfl (fun w hw => hu w (by simp [hw]))
      (by simp [hA, pollAnswers])
    exact ⟨t, (poll_unflagged ((status_run s).trans hr) hv).trans ht,
      ((Reached.afterFrame e).trans (Reached.wait _ 1)).trans hR⟩

/-- The payload part of TRANSMIT, before the poll (R190). -/
inductive LaunchRun (p : Params) (q : Bytes) : List Event → Bool → Prop where
  | sent (d1 d2 : Bytes) (h1 : d1.length = 1) (h2 : d2.length = q.length + 1) :
      LaunchRun p q (frameEvents [0xE1] (.ok d1) ++ frameEvents (0xA0 :: q) (.ok d2) ++
        [.line .ce .high, .wait 1, .line .ce .low]) true
  | badFlush (bad : Answer) (hb : bad.breaks p [0xE1]) : LaunchRun p q (frameEvents [0xE1] bad) false
  | badPayload (d1 : Bytes) (bad : Answer) (h1 : d1.length = 1) (hb : bad.breaks p (0xA0 :: q)) :
      LaunchRun p q (frameEvents [0xE1] (.ok d1) ++ frameEvents (0xA0 :: q) bad) false

/-- The state after the CE pulse. -/
def State.pulsed (s : State) : State :=
  ((((s.drive .ce .high).emit (.line .ce .high)).emit (.wait 1)).drive .ce .low).emit (.line .ce .low)

theorem pulse_run (s : State) :
    Proc.seq [setLine .ce .high, wait cePulseMs, setLine .ce .low] s = (.ok (), s.pulsed) := rfl

theorem pulse_reached (s : State) :
    Reached s [.line .ce .high, .wait 1, .line .ce .low] s.radio .low s.csn s.pulsed :=
  ((Reached.ceLine s .high).trans (Reached.wait _ 1)).trans (Reached.ceLine _ .low)

/-- The steps of TRANSMIT before its poll (R190). -/
def launchSteps (p : Bytes) : List (Proc Unit) :=
  [RA.flushTx, RA.writePayload (wire32 p), setLine .ce .high, wait cePulseMs, setLine .ce .low]

theorem transmit_eq (p : Bytes) : PT.transmit p = Proc.bind (Proc.seq (launchSteps p)) fun _ => PT.poll pollLimit := rfl

/-- The steps of TRANSMIT before its poll, whatever is answered (R190), begun with CE Low. -/
theorem launch_cases (p : Bytes) (s : State) (hce : s.ce = .low) :
    ∃ es t, Reached s es s.radio .low .high t ∧
      ((LaunchRun s.params (wire32 p) es true ∧ Proc.seq (launchSteps p) s = (.ok (), t)) ∨
       (LaunchRun s.params (wire32 p) es false ∧ Proc.seq (launchSteps p) s = (.error .transport, t))) := by
  obtain ⟨d1, hl, hr, hR⟩ | ⟨bad, hb, hr, hR⟩ := frame_cases (fun _ => ()) [0xE1] s
  · have h1 := (flushTx_run s).trans hr
    obtain ⟨d2, hl', hr', hR'⟩ | ⟨bad, hb', hr', hR'⟩ :=
      frame_cases (fun _ => ()) (0xA0 :: wire32 p) (s.afterFrame [0xE1])
    · have h2 := (transmit_payload_run p _).trans hr'
      have hP := pulse_reached ((s.afterFrame [0xE1]).afterFrame (0xA0 :: wire32 p))
      exact ⟨_, _, (hR.trans hR').trans hP, .inl ⟨.sent d1 d2 hl (by simpa using hl'),
        (Proc.seq_of_ok h1).trans ((Proc.seq_of_ok h2).trans (pulse_run _))⟩⟩
    · have h2 := (transmit_payload_run p _).trans hr'
      exact ⟨_, _, by simpa [hce] using hR.trans hR', .inr ⟨.badPayload d1 bad hl hb',
        (Proc.seq_of_ok h1).trans (Proc.seq_of_error h2)⟩⟩
  · exact ⟨_, _, by simpa [hce] using hR, .inr ⟨.badFlush bad hb, Proc.seq_of_error ((flushTx_run s).trans hr)⟩⟩

/-- PT.TRANSMIT, whatever is answered (R190), begun with CE Low. -/
theorem transmit_cases (p : Bytes) (s : State) (hce : s.ce = .low) :
    (∃ es t, LaunchRun s.params (wire32 p) es false ∧ PT.transmit p s = (.error .transport, t) ∧
      Reached s es s.radio .low .high t) ∨
    (∃ es fs r t, LaunchRun s.params (wire32 p) es true ∧ PollRun s.params pollLimit fs r ∧ PT.transmit p s = (r, t) ∧
      Reached s (es ++ fs) s.radio .low .high t) := by
  obtain ⟨es, t, hR, ⟨hL, h⟩ | ⟨hL, h⟩⟩ := launch_cases p s hce
  · obtain ⟨fs, r, u, hP, hu, hR'⟩ := poll_cases pollLimit t hR.csnIs
    have hRR := hR.trans hR'
    rw [hR.moved.params] at hP
    rw [hR.radio, hR.ceIs] at hRR
    refine .inr ⟨es, fs, r, u, hL, hP, ?_, hRR⟩
    rw [transmit_eq]
    exact (Proc.bind_of_ok h).trans hu
  · refine .inl ⟨es, t, hL, ?_, hR⟩
    rw [transmit_eq]
    exact Proc.bind_of_error h

/-- What PT.RECEIVE emitted and returned (R192). -/
inductive ReceiveRun (p : Params) : List Event → Except Reason (Option Bytes) → Prop where
  | nothing (v : Byte) (hv : v &&& 0x40 = 0) : ReceiveRun p (frameEvents [0xFF] (.ok [v])) (.ok none)
  | found (v : Byte) (d2 d3 : Bytes) (hv : v &&& 0x40 ≠ 0) (h2 : d2.length = 2) (h3 : d3.length = 33) :
      ReceiveRun p (frameEvents [0xFF] (.ok [v]) ++ frameEvents [0x27, 0x40] (.ok d2) ++
        frameEvents (0x61 :: List.replicate 32 p.dummyByte) (.ok d3)) (.ok (some d3.tail))
  | badStatus (bad : Answer) (hb : bad.breaks p [0xFF]) : ReceiveRun p (frameEvents [0xFF] bad) (.error .transport)
  | badClear (v : Byte) (bad : Answer) (hv : v &&& 0x40 ≠ 0) (hb : bad.breaks p [0x27, 0x40]) :
      ReceiveRun p (frameEvents [0xFF] (.ok [v]) ++ frameEvents [0x27, 0x40] bad) (.error .transport)
  | badPayload (v : Byte) (d2 : Bytes) (bad : Answer) (hv : v &&& 0x40 ≠ 0) (h2 : d2.length = 2)
      (hb : bad.breaks p (0x61 :: List.replicate 32 p.dummyByte)) :
      ReceiveRun p (frameEvents [0xFF] (.ok [v]) ++ frameEvents [0x27, 0x40] (.ok d2) ++
        frameEvents (0x61 :: List.replicate 32 p.dummyByte) bad) (.error .transport)

theorem receive_of_status {v : Byte} {s t : State} (hs : RA.status s = (.ok v, t)) :
    (v &&& 0x40 = 0 → PT.receive s = (.ok none, t)) ∧
    (v &&& 0x40 ≠ 0 → PT.receive s = Proc.bind (RA.write Reg.status.addr rxDr) (fun _ =>
      Proc.bind RA.readPayload fun data => Proc.ret (some data)) t) := by
  constructor <;> intro hv <;> refine (Proc.bind_of_ok hs).trans ?_
  · have h : flagSet v rxDr = false := by simpa [flagSet, rxDr] using hv
    simp only [h]; rfl
  · have h : flagSet v rxDr = true := by simpa [flagSet, rxDr] using hv
    simp only [h, if_true]

/-- PT.RECEIVE, whatever is answered (R192). -/
theorem receive_cases (s : State) :
    ∃ es r t, ReceiveRun s.params es r ∧ PT.receive s = (r, t) ∧ Reached s es s.radio s.ce .high t := by
  obtain ⟨d1, hl, hr, hR⟩ | ⟨bad, hb, hr, hR⟩ := frame_cases (fun data => data.getD 0 0) [0xFF] s
  · obtain ⟨v, rfl⟩ : ∃ v, d1 = [v] := List.length_eq_one_iff.1 hl
    obtain ⟨h0, h1⟩ := receive_of_status ((status_run s).trans hr)
    by_cases hv : v &&& 0x40 = 0
    · exact ⟨_, _, _, .nothing v hv, h0 hv, hR⟩
    · have hw := write_reg_run .status rxDr (s.afterFrame [0xFF])
      obtain ⟨d2, hl2, hr2, hR2⟩ | ⟨bad, hb, hr2, hR2⟩ := frame_cases (fun _ => ()) [0x27, 0x40] (s.afterFrame [0xFF])
      · have hp := readPayload_run ((s.afterFrame [0xFF]).afterFrame [0x27, 0x40])
        obtain ⟨d3, hl3, hr3, hR3⟩ | ⟨bad, hb, hr3, hR3⟩ := frame_cases List.tail
          (0x61 :: List.replicate 32 s.params.dummyByte) ((s.afterFrame [0xFF]).afterFrame [0x27, 0x40])
        · exact ⟨_, _, _, .found v d2 d3 hv hl2 (by simpa using hl3),
            (h1 hv).trans ((Proc.bind_of_ok (hw.trans hr2)).trans (Proc.bind_of_ok (hp.trans hr3))),
            (hR.trans hR2).trans hR3⟩
        · exact ⟨_, _, _, .badPayload v d2 bad hv hl2 hb,
            (h1 hv).trans ((Proc.bind_of_ok (hw.trans hr2)).trans (Proc.bind_of_error (hp.trans hr3))),
            (hR.trans hR2).trans hR3⟩
      · exact ⟨_, _, _, .badClear v bad hv hb, (h1 hv).trans (Proc.bind_of_error (hw.trans hr2)), hR.trans hR2⟩
  · exact ⟨_, _, _, .badStatus bad hb, Proc.bind_of_error ((status_run s).trans hr), hR⟩

/-! ## RadioConfig -/

/-- What RC.APPLY emitted and returned (R231). -/
inductive ApplyRun (pr : Params) (c p : Int) : List Event → Except Reason Unit → Prop where
  | done (d1 d3 : Bytes) (st v : Byte) (h1 : d1.length = 2) (h3 : d3.length = 2) :
      ApplyRun pr c p (frameEvents [0x25, channelByte c] (.ok d1) ++ frameEvents [0x06, pr.dummyByte] (.ok [st, v]) ++
        frameEvents [0x26, setPower v p] (.ok d3)) (.ok ())
  | badChannel (bad : Answer) (hb : bad.breaks pr [0x25, channelByte c]) :
      ApplyRun pr c p (frameEvents [0x25, channelByte c] bad) (.error .transport)
  | badRead (d1 : Bytes) (bad : Answer) (h1 : d1.length = 2) (hb : bad.breaks pr [0x06, pr.dummyByte]) :
      ApplyRun pr c p (frameEvents [0x25, channelByte c] (.ok d1) ++ frameEvents [0x06, pr.dummyByte] bad)
        (.error .transport)
  | badSetup (d1 : Bytes) (st v : Byte) (bad : Answer) (h1 : d1.length = 2) (hb : bad.breaks pr [0x26, setPower v p]) :
      ApplyRun pr c p (frameEvents [0x25, channelByte c] (.ok d1) ++ frameEvents [0x06, pr.dummyByte] (.ok [st, v]) ++
        frameEvents [0x26, setPower v p] bad) (.error .transport)

/-- RC.APPLY, whatever is answered (R231). -/
theorem apply_cases (c p : Int) (s : State) :
    ∃ es r t, ApplyRun s.params c p es r ∧ RC.apply c p s = (r, t) ∧ Reached s es s.radio s.ce .high t := by
  have h1 := write_reg_run .rfCh (channelByte c) s
  obtain ⟨d1, hl, hr, hR⟩ | ⟨bad, hb, hr, hR⟩ := frame_cases (fun _ => ()) [0x25, channelByte c] s
  · have h2 := read_run (a := Reg.rfSetup.addr) (by decide) (s.afterFrame [0x25, channelByte c])
    obtain ⟨d2, hl2, hr2, hR2⟩ | ⟨bad, hb, hr2, hR2⟩ := frame_cases (fun data => data.getD 1 0)
      [0x06, s.params.dummyByte] (s.afterFrame [0x25, channelByte c])
    · obtain ⟨st, v, rfl⟩ : ∃ st v, d2 = [st, v] := List.length_eq_two.1 hl2
      have h3 := write_reg_run .rfSetup (setPower v p)
        ((s.afterFrame [0x25, channelByte c]).afterFrame [0x06, s.params.dummyByte])
      obtain ⟨d3, hl3, hr3, hR3⟩ | ⟨bad, hb, hr3, hR3⟩ := frame_cases (fun _ => ()) [0x26, setPower v p]
        ((s.afterFrame [0x25, channelByte c]).afterFrame [0x06, s.params.dummyByte])
      · exact ⟨_, _, _, .done d1 d3 st v hl hl3,
          (Proc.bind_of_ok (h1.trans hr)).trans ((Proc.bind_of_ok (h2.trans hr2)).trans (h3.trans hr3)),
          (hR.trans hR2).trans hR3⟩
      · exact ⟨_, _, _, .badSetup d1 st v bad hl hb,
          (Proc.bind_of_ok (h1.trans hr)).trans ((Proc.bind_of_ok (h2.trans hr2)).trans (h3.trans hr3)),
          (hR.trans hR2).trans hR3⟩
    · exact ⟨_, _, _, .badRead d1 bad hl hb,
        (Proc.bind_of_ok (h1.trans hr)).trans (Proc.bind_of_error (h2.trans hr2)), hR.trans hR2⟩
  · exact ⟨_, _, _, .badChannel bad hb, Proc.bind_of_error (h1.trans hr), hR⟩

end Sys2Proof.Machine
end

