-- ==== Sys2Proof/Laws/Behaviour.lean ====
section
/-! SUPPORT. Everything an instruction can do, said once: `exec_behaviour`. Later proofs take cases on `Behaviour` and never
unfold a meaning. -/

namespace Sys2Proof.Machine

/-- What an instruction run in `s` emits, hands over, and leaves in RadioState, CE and CSN. -/
inductive Behaviour (s : State) : Instr → List Event → Result → RadioState → LineLevel → LineLevel → Prop where
  | badLength (i : Instr) (hi : i.isRequest = false) (hw : i.wellFormed = false) :
      Behaviour s i [] (.accessFailed .length) s.radio s.ce s.csn
  | accessOk (i : Instr) (hi : i.isRequest = false) (out data res : Bytes) (hl : data.length = out.length) :
      Behaviour s i (frameEvents out (.ok data)) (.accessOk res) s.radio s.ce .high
  | accessBad (i : Instr) (hi : i.isRequest = false) (out : Bytes) (bad : Answer) (hb : bad.breaks s.params out) :
      Behaviour s i (frameEvents out bad) (.accessFailed .transport) s.radio s.ce .high
  | initOk (as : List Answer) (hS : AllServe (initFrames s) as) :
      Behaviour s .init (initSetupEvents ++ framesEvents (initFrames s) as) (.response .ok) .standby .low .high
  | initBad (before after : List Bytes) (out : Bytes) (oks : List Answer) (bad : Answer)
      (ho : initFrames s = before ++ out :: after) (hS : AllServe before oks) (hb : bad.breaks s.params out) :
      Behaviour s .init (initSetupEvents ++ (framesEvents before oks ++ frameEvents out bad))
        (.response (.failure .transport)) .uninitialized .low .high
  | configureInvalid (c p : Int) (hv : RC.validate c p = false) :
      Behaviour s (.configure c p) [] (.response .validationError) s.radio s.ce s.csn
  | configureCached (c p : Int) (hv : RC.validate c p = true) (hr : s.radio = .uninitialized) :
      Behaviour s (.configure c p) [] (.response .ok) s.radio s.ce s.csn
  | configureApplied (c p : Int) (es : List Event) (r : Except Reason Unit) (hv : RC.validate c p = true)
      (hr : s.radio ≠ .uninitialized) (hA : ApplyRun s.params c p es r) :
      Behaviour s (.configure c p) es (.response (respond r)) s.radio s.ce .high
  | notReady (i : Instr) (hi : (∃ p, i = .send p) ∨ i = .startReceive ∨ i = .receive) (hr : s.radio = .uninitialized) :
      Behaviour s i [] (.response .notReady) s.radio s.ce s.csn
  | sendEnterBad (p : Bytes) (bad : Answer) (hr : s.radio ≠ .uninitialized) (hb : bad.breaks s.params [0x20, 0x0A]) :
      Behaviour s (.send p) ([.line .ce .low] ++ frameEvents [0x20, 0x0A] bad) (.response (.failure .transport))
        s.radio .low .high
  | sendLaunchBad (p d : Bytes) (es : List Event) (hr : s.radio ≠ .uninitialized) (hd : d.length = 2)
      (hL : LaunchRun s.params (wire32 p) es false) :
      Behaviour s (.send p) ([.line .ce .low] ++ frameEvents [0x20, 0x0A] (.ok d) ++ [.wait 2] ++ es)
        (.response (.failure .transport)) .transmitting .low .high
  | sendPolled (p d : Bytes) (es fs : List Event) (r : Except Reason Unit) (hr : s.radio ≠ .uninitialized)
      (hd : d.length = 2) (hL : LaunchRun s.params (wire32 p) es true) (hP : PollRun s.params pollLimit fs r) :
      Behaviour s (.send p) ([.line .ce .low] ++ frameEvents [0x20, 0x0A] (.ok d) ++ [.wait 2] ++ (es ++ fs))
        (.response (respond r)) .transmitting .low .high
  | startReceiveOk (d : Bytes) (hr : s.radio ≠ .uninitialized) (hd : d.length = 2) :
      Behaviour s .startReceive ([.line .ce .low] ++ frameEvents [0x20, 0x0B] (.ok d) ++ [.wait 2, .line .ce .high])
        (.response .ok) .listening .high .high
  | startReceiveBad (bad : Answer) (hr : s.radio ≠ .uninitialized) (hb : bad.breaks s.params [0x20, 0x0B]) :
      Behaviour s .startReceive ([.line .ce .low] ++ frameEvents [0x20, 0x0B] bad) (.response (.failure .transport))
        s.radio .low .high
  | receiveOk (es : List Event) (d : Option Bytes) (hr : s.radio ≠ .uninitialized) (hR : ReceiveRun s.params es (.ok d)) :
      Behaviour s .receive es (.response (.received d)) s.radio s.ce .high
  | receiveBad (es : List Event) (q : Reason) (hr : s.radio ≠ .uninitialized) (hR : ReceiveRun s.params es (.error q)) :
      Behaviour s .receive es (.response (.failure q)) s.radio s.ce .high

/-- The channel after the instruction (R233). -/
def channelAfter (s : State) (i : Instr) (r : Result) : Int :=
  match i with
  | .configure c _ => if r = .response .ok then c else s.channel
  | _ => s.channel

/-- The power level after the instruction (R233). -/
def powerAfter (s : State) (i : Instr) (r : Result) : Int :=
  match i with
  | .configure _ p => if r = .response .ok then p else s.power
  | _ => s.power

/-- The whole state after an instruction that emitted `es` and handed over `r`. -/
def stateAfter (s : State) (i : Instr) (es : List Event) (r : Result) (rd : RadioState) (ce csn : LineLevel) : State :=
  { s with
    radio := rd
    channel := channelAfter s i r
    power := powerAfter s i r
    ce := ce
    csn := csn
    seq := .idle
    answers := s.answers.drop (es.countP Event.isXfer)
    draws := s.draws + es.countP Event.isXfer
    trace := s.trace ++ es
    results := s.results ++ [r] }

/-- An instruction's meaning, as a behaviour and the state it leaves. -/
def Behaves (i : Instr) (s : State) : Prop :=
  ∃ es r rd ce csn, Behaviour s i es r rd ce csn ∧ exec i s = .next (stateAfter s i es r rd ce csn)

theorem Reached.stateAfter_eq {s t : State} {i : Instr} {es : List Event} {rd : RadioState} {ce csn : LineLevel}
    (h : Reached s es rd ce csn t) (r : Result) (hc : channelAfter s i r = s.channel) (hp : powerAfter s i r = s.power) :
    t.finish r = stateAfter s i es r rd ce csn := by
  rw [h.finish_eq, stateAfter, hc, hp]

theorem runAccess_of {p : Proc Bytes} {s t : State} {x : Except Reason Bytes} (h : p s = (x, t)) :
    runAccess p s = t.finish (accessResult x) := by
  simp [runAccess, h]

theorem serve_of {h : State → Response × State} {s t : State} {x : Response} (e : h s = (x, t)) :
    serve h s = t.finish (.response x) := by
  simp [serve, e]

/-- A bus command that is one frame behaves as one. -/
theorem access_behaves {α : Type} {i : Instr} {s : State} {p : Proc Bytes} {f : Bytes → α} {out : Bytes} {g : α → Bytes}
    (hi : i.isRequest = false) (he : exec i s = .next (runAccess p s))
    (hp : p s = match frameOutcome f out s with
      | (.ok a, t) => (.ok (g a), t)
      | (.error r, t) => (.error r, t))
    (hc : ∀ r, channelAfter s i r = s.channel) (hw : ∀ r, powerAfter s i r = s.power) : Behaves i s := by
  obtain ⟨data, hl, hr, hR⟩ | ⟨bad, hb, hr, hR⟩ := frame_cases f out s
  · rw [hr] at hp
    exact ⟨_, _, _, _, _, .accessOk i hi out data (g (f data)) hl,
      he.trans (by rw [runAccess_of hp]; exact congrArg _ (hR.stateAfter_eq _ (hc _) (hw _)))⟩
  · rw [hr] at hp
    exact ⟨_, _, _, _, _, .accessBad i hi out bad hb,
      he.trans (by rw [runAccess_of hp]; exact congrArg _ (hR.stateAfter_eq _ (hc _) (hw _)))⟩

/-- A bus command its length check rejects behaves as one. -/
theorem badLength_behaves {i : Instr} {s : State} {p : Proc Bytes} (hi : i.isRequest = false)
    (hw : i.wellFormed = false) (he : exec i s = .next (runAccess p s)) (hp : p s = (.error .length, s))
    (hc : ∀ r, channelAfter s i r = s.channel) (hpw : ∀ r, powerAfter s i r = s.power) : Behaves i s :=
  ⟨_, _, _, _, _, .badLength i hi hw,
    he.trans (by rw [runAccess_of hp]; exact congrArg _ ((Reached.refl s).stateAfter_eq _ (hc _) (hpw _)))⟩

theorem rRegister_behaves (a : Byte) (s : State) : Behaves (.rRegister a) s := by
  by_cases ha : a ≤ 0x1F
  · refine access_behaves rfl rfl ?_ (fun _ => rfl) (fun _ => rfl)
      (f := fun data => data.getD 1 0) (out := [a, s.params.dummyByte]) (g := fun v => [v])
    rw [← read_run ha]; rfl
  · refine badLength_behaves rfl (by simpa [Instr.wellFormed, addrOk] using ha) rfl ?_ (fun _ => rfl) (fun _ => rfl)
    have h : 0x1F < a := by simpa using ha
    simp only [Proc.bind, RA.read, if_pos h, Proc.fail_run]

theorem rRegisterMulti_behaves (a : Byte) (n : Int) (s : State) : Behaves (.rRegisterMulti a n) s := by
  by_cases h : 0x1F < a ∨ n < 1 ∨ 32 < n
  · refine badLength_behaves rfl ?_ rfl ?_ (fun _ => rfl) (fun _ => rfl)
    · rcases h with h | h | h
      · have : ¬ a ≤ 0x1F := by simpa using h
        simp only [Instr.wellFormed, addrOk, this, decide_false, Bool.false_and]
      · have : ¬ 1 ≤ n := by omega
        simp only [Instr.wellFormed, dataLenOk, this, decide_false, Bool.false_and, Bool.and_false]
      · have : ¬ n ≤ 32 := by omega
        simp only [Instr.wellFormed, dataLenOk, this, decide_false, Bool.and_false]
    · simp only [RA.readMulti, if_pos h, Proc.fail_run]
  · have ha : a ≤ 0x1F := by
      have : ¬ 0x1F < a := fun k => h (.inl k)
      simpa using this
    refine access_behaves rfl rfl ?_ (fun _ => rfl) (fun _ => rfl) (f := List.tail)
      (out := a :: List.replicate n.toNat s.params.dummyByte) (g := id)
    rw [readMulti_run ha (by omega) (by omega)]
    rcases frameOutcome List.tail (a :: List.replicate n.toNat s.params.dummyByte) s with ⟨x | x, t⟩ <;> rfl

theorem wRegister_behaves (a v : Byte) (s : State) : Behaves (.wRegister a v) s := by
  by_cases ha : a ≤ 0x1F
  · refine access_behaves rfl rfl ?_ (fun _ => rfl) (fun _ => rfl)
      (f := fun _ => ()) (out := [cmdWrite a, v]) (g := fun _ => [])
    rw [← write_run ha]; rfl
  · refine badLength_behaves rfl (by simpa [Instr.wellFormed, addrOk] using ha) rfl ?_ (fun _ => rfl) (fun _ => rfl)
    have h : 0x1F < a := by simpa using ha
    simp only [Proc.bind, RA.write, if_pos h, Proc.fail_run]

theorem wRegisterMulti_behaves (a : Byte) (bs : Bytes) (s : State) : Behaves (.wRegisterMulti a bs) s := by
  by_cases h : 0x1F < a ∨ bs.length < 1 ∨ 32 < bs.length
  · refine badLength_behaves rfl ?_ rfl ?_ (fun _ => rfl) (fun _ => rfl)
    · rcases h with h | h | h
      · have : ¬ a ≤ 0x1F := by simpa using h
        simp only [Instr.wellFormed, addrOk, this, decide_false, Bool.false_and]
      · have : ¬ (1 : Int) ≤ bs.length := by omega
        simp only [Instr.wellFormed, dataLenOk, this, decide_false, Bool.false_and, Bool.and_false]
      · have : ¬ (bs.length : Int) ≤ 32 := by omega
        simp only [Instr.wellFormed, dataLenOk, this, decide_false, Bool.and_false]
    · simp only [Proc.bind, RA.writeMulti, if_pos h, Proc.fail_run]
  · have ha : a ≤ 0x1F := by
      have : ¬ 0x1F < a := fun k => h (.inl k)
      simpa using this
    refine access_behaves rfl rfl ?_ (fun _ => rfl) (fun _ => rfl) (f := fun _ => ())
      (out := cmdWrite a :: bs) (g := fun _ => [])
    rw [← writeMulti_run ha (by omega) (by omega)]; rfl

theorem rRxPayload_behaves (s : State) : Behaves .rRxPayload s := by
  refine access_behaves rfl rfl ?_ (fun _ => rfl) (fun _ => rfl) (f := List.tail)
    (out := 0x61 :: List.replicate 32 s.params.dummyByte) (g := id)
  rw [readPayload_run]
  rcases frameOutcome List.tail (0x61 :: List.replicate 32 s.params.dummyByte) s with ⟨x | x, t⟩ <;> rfl

theorem wTxPayload_behaves (q : Bytes) (s : State) : Behaves (.wTxPayload q) s := by
  by_cases h : q.length = 32
  · refine access_behaves rfl rfl ?_ (fun _ => rfl) (fun _ => rfl) (f := fun _ => ()) (out := 0xA0 :: q) (g := fun _ => [])
    rw [← writePayload_run h]; rfl
  · refine badLength_behaves rfl (by simpa [Instr.wellFormed, payloadLenOk] using h) rfl ?_ (fun _ => rfl) (fun _ => rfl)
    simp [Proc.bind, RA.writePayload, h]

theorem flushTx_behaves (s : State) : Behaves .flushTx s := by
  refine access_behaves rfl rfl ?_ (fun _ => rfl) (fun _ => rfl) (f := fun _ => ()) (out := [0xE1]) (g := fun _ => [])
  rw [← flushTx_run]; rfl

theorem flushRx_behaves (s : State) : Behaves .flushRx s := by
  refine access_behaves rfl rfl ?_ (fun _ => rfl) (fun _ => rfl) (f := fun _ => ()) (out := [0xE2]) (g := fun _ => [])
  rw [← flushRx_run]; rfl

theorem nop_behaves (s : State) : Behaves .nop s := by
  refine access_behaves rfl rfl ?_ (fun _ => rfl) (fun _ => rfl) (f := fun data => data.getD 0 0) (out := [0xFF])
    (g := fun v => [v])
  rw [← status_run]; rfl

/-- A request whose handler reached `t` leaves the state its events say. -/
theorem request_next {i : Instr} {s t : State} {h : State → Response × State} {x : Response} {es : List Event}
    {rd : RadioState} {ce csn : LineLevel} (he : exec i s = .next (serve h s)) (hh : h s = (x, t))
    (hR : Reached s es rd ce csn t) (hc : channelAfter s i (.response x) = s.channel)
    (hp : powerAfter s i (.response x) = s.power) :
    exec i s = .next (stateAfter s i es (.response x) rd ce csn) := by
  rw [he, serve_of hh, hR.stateAfter_eq _ hc hp]

theorem init_behaves (s : State) : Behaves .init s := by
  obtain ⟨as, t, hS, ht, hR⟩ | ⟨before, out, after, oks, bad, t, ho, hS, hb, ht, hR⟩ := initialize_cases s
  · refine ⟨_, _, _, _, _, .initOk as hS, request_next rfl (t := t.setRadio .standby) (by simp only [DRV.init, ht]) ?_ rfl rfl⟩
    simpa [hR.ceIs, hR.csnIs] using hR.trans (Reached.setRadio t .standby)
  · refine ⟨_, _, _, _, _, .initBad before after out oks bad ho hS hb,
      request_next rfl (t := t.setRadio .uninitialized) (by simp only [DRV.init, ht]) ?_ rfl rfl⟩
    simpa [hR.ceIs, hR.csnIs] using hR.trans (Reached.setRadio t .uninitialized)

theorem respond_failure_ne_ok (r : Reason) : Response.failure r ≠ Response.ok := by
  simp [Response.failure, Response.ok]

theorem initialized_eq_true {s : State} : s.initialized = true ↔ s.radio ≠ .uninitialized := by
  simp [State.initialized]

/-- What RC.VALIDATE accepts (R230). -/
theorem validate_eq_true {c p : Int} : RC.validate c p = true ↔ 0 ≤ c ∧ c ≤ 125 ∧ 0 ≤ p ∧ p ≤ 3 := by
  have hc : channelMax = 125 := rfl
  have hp : powerMax = 3 := rfl
  simp only [RC.validate, Bool.and_eq_true, decide_eq_true_iff, hc, hp, and_assoc]

theorem validate_eq_false {c p : Int} : RC.validate c p = false ↔ ¬ (0 ≤ c ∧ c ≤ 125 ∧ 0 ≤ p ∧ p ≤ 3) := by
  rw [← validate_eq_true, Bool.not_eq_true]

theorem configure_behaves (c p : Int) (s : State) : Behaves (.configure c p) s := by
  by_cases hv : RC.validate c p = true
  · by_cases hr : s.radio = .uninitialized
    · have hi : s.initialized = false := by simp [State.initialized, hr]
      refine ⟨_, _, _, _, _, .configureCached c p hv hr, ?_⟩
      have e : DRV.configure c p s = (.ok, s.setChannelPower c p) := by simp [DRV.configure, hv, hi]
      show Host.Outcome.next (serve (DRV.configure c p) s) = _
      rw [serve_of e]
      simp [stateAfter, channelAfter, powerAfter, State.finish, State.setChannelPower]
    · have hi := initialized_eq_true.2 hr
      obtain ⟨es, r, t, hA, ht, hR⟩ := apply_cases c p s
      refine ⟨_, _, _, _, _, .configureApplied c p es r hv hr hA, ?_⟩
      show Host.Outcome.next (serve (DRV.configure c p) s) = _
      cases r with
      | ok _ =>
        have e : DRV.configure c p s = (.ok, t.setChannelPower c p) := by simp [DRV.configure, hv, hi, ht]
        rw [serve_of e]
        congr 1
        ext1 <;> simp [stateAfter, channelAfter, powerAfter, respond, hR.radio, hR.ceIs, hR.csnIs, hR.moved.trace,
          hR.moved.txAddr, hR.moved.rxAddr, hR.moved.params, hR.moved.port, hR.moved.results, hR.moved.draws,
          hR.moved.answers]
      | error q =>
        have e : DRV.configure c p s = (.failure q, t) := by simp [DRV.configure, hv, hi, ht]
        rw [serve_of e, hR.stateAfter_eq (i := .configure c p)] <;>
          simp [channelAfter, powerAfter, respond, respond_failure_ne_ok]
  · refine ⟨_, _, _, _, _, .configureInvalid c p (by simpa using hv), ?_⟩
    refine request_next rfl (x := .validationError) (t := s) (by simp [DRV.configure, hv]) (Reached.refl s) ?_ ?_ <;>
      simp [channelAfter, powerAfter, Response.validationError, Response.ok]

/-- The guard of SEND, START_RECEIVE and RECEIVE (R234 to R236). -/
theorem guarded_behaves {i : Instr} {s : State} {h : State → Response × State} (he : exec i s = .next (serve (DRV.guarded h) s))
    (hi : (∃ p, i = .send p) ∨ i = .startReceive ∨ i = .receive)
    (hc : ∀ r, channelAfter s i r = s.channel) (hp : ∀ r, powerAfter s i r = s.power)
    (hin : s.radio ≠ .uninitialized → ∃ es r rd ce csn t, Behaviour s i es (.response r) rd ce csn ∧ h s = (r, t) ∧
      Reached s es rd ce csn t) : Behaves i s := by
  by_cases hr : s.radio = .uninitialized
  · exact ⟨_, _, _, _, _, .notReady i hi hr, request_next he (by simp [DRV.guarded, State.initialized, hr])
      (Reached.refl s) (hc _) (hp _)⟩
  · obtain ⟨es, r, rd, ce, csn, t, hB, ht, hR⟩ := hin hr
    exact ⟨_, _, _, _, _, hB, request_next he (by simp [DRV.guarded, initialized_eq_true.2 hr, ht]) hR (hc _) (hp _)⟩

theorem send_behaves (p : Bytes) (s : State) : Behaves (.send p) s := by
  refine guarded_behaves rfl (.inl ⟨p, rfl⟩) (fun _ => rfl) (fun _ => rfl) fun hr => ?_
  obtain ⟨d, t, hd, ht, hR⟩ | ⟨bad, t, hb, ht, hR⟩ := enterTransmit_cases s
  · obtain ⟨es, u, hL, hu, hR'⟩ | ⟨es, fs, r, u, hL, hP, hu, hR'⟩ := transmit_cases p t hR.ceIs
    · have hRR := hR.trans hR'
      rw [hR.moved.params] at hL
      rw [hR.radio] at hRR
      exact ⟨_, _, _, _, _, u, .sendLaunchBad p d es hr hd hL, by rw [Proc.bind_of_ok ht, hu]; rfl, hRR⟩
    · have hRR := hR.trans hR'
      rw [hR.moved.params] at hL hP
      rw [hR.radio] at hRR
      exact ⟨_, _, _, _, _, u, .sendPolled p d es fs r hr hd hL hP, by rw [Proc.bind_of_ok ht, hu], hRR⟩
  · exact ⟨_, _, _, _, _, t, .sendEnterBad p bad hr hb, by rw [Proc.bind_of_error ht]; rfl, hR⟩

theorem startReceive_behaves (s : State) : Behaves .startReceive s := by
  refine guarded_behaves rfl (.inr (.inl rfl)) (fun _ => rfl) (fun _ => rfl) fun hr => ?_
  obtain ⟨d, t, hd, ht, hR⟩ | ⟨bad, t, hb, ht, hR⟩ := enterReceive_cases s
  · exact ⟨_, _, _, _, _, t, .startReceiveOk d hr hd, by rw [ht]; rfl, hR⟩
  · exact ⟨_, _, _, _, _, t, .startReceiveBad bad hr hb, by rw [ht]; rfl, hR⟩

theorem receive_behaves (s : State) : Behaves .receive s := by
  refine guarded_behaves rfl (.inr (.inr rfl)) (fun _ => rfl) (fun _ => rfl) fun hr => ?_
  obtain ⟨es, r, t, hRun, ht, hR⟩ := receive_cases s
  cases r with
  | ok d => exact ⟨_, _, _, _, _, t, .receiveOk es d hr hRun, by rw [ht], hR⟩
  | error q => exact ⟨_, _, _, _, _, t, .receiveBad es q hr hRun, by rw [ht], hR⟩

/-- Everything an instruction can do: it has one of the behaviours, and the state it leaves is the behaviour's. -/
theorem exec_behaviour (i : Instr) (s : State) : Behaves i s := by
  cases i with
  | rRegister a => exact rRegister_behaves a s
  | rRegisterMulti a n => exact rRegisterMulti_behaves a n s
  | wRegister a v => exact wRegister_behaves a v s
  | wRegisterMulti a bs => exact wRegisterMulti_behaves a bs s
  | rRxPayload => exact rRxPayload_behaves s
  | wTxPayload q => exact wTxPayload_behaves q s
  | flushTx => exact flushTx_behaves s
  | flushRx => exact flushRx_behaves s
  | nop => exact nop_behaves s
  | init => exact init_behaves s
  | configure c p => exact configure_behaves c p s
  | send p => exact send_behaves p s
  | startReceive => exact startReceive_behaves s
  | receive => exact receive_behaves s

/-- The behaviour an instruction that answered `t` with the triple `es`, `r` had. -/
theorem behaviour_of_exec {i : Instr} {s t : State} {es : List Event} {r : Result} (h : exec i s = .next t)
    (hd : Did s es r t) : ∃ rd ce csn, Behaviour s i es r rd ce csn ∧ t = stateAfter s i es r rd ce csn := by
  obtain ⟨es', r', rd, ce, csn, hB, he⟩ := exec_behaviour i s
  obtain rfl : t = stateAfter s i es' r' rd ce csn := by
    have := h.symm.trans he
    exact Host.Outcome.next.inj this
  obtain ⟨rfl, rfl⟩ := hd.unique (es := es) (fs := es') (q := r') ⟨rfl, rfl⟩
  exact ⟨rd, ce, csn, hB, rfl⟩

end Sys2Proof.Machine
end

