-- ==== Sys2Proof/Laws/PerInstr.lean ====
section
/-! SUPPORT. Per-instruction statements about the syntax: every instruction has one spelling, which is well-formed where the
instruction is and has its encoding (R97; log 13). -/

namespace Sys2Proof.Laws.Canon

/-- The one spelling of `i` is a spelling of its own, well-formed if `i` is, and encoded as `i` is. -/
def Statement (i : Instr) : Prop :=
  i.canon.canon = i.canon ∧
  (i.wellFormed = true → i.canon.wellFormed = true ∧ ∀ d, encode d i.canon = encode d i)

/-- An instruction that is its own spelling. -/
theorem of_canon {i : Instr} (h : i.canon = i) : Statement i := by
  unfold Statement
  rw [h]
  exact ⟨h, fun hw => ⟨hw, fun _ => rfl⟩⟩

theorem rRegister (a : Byte) : Statement (.rRegister a) := of_canon rfl

theorem rRegisterMulti (a : Byte) (n : Int) : Statement (.rRegisterMulti a n) := by
  by_cases h : n = 1
  · subst h
    refine ⟨rfl, fun hw => ⟨?_, fun d => rfl⟩⟩
    simpa [Instr.wellFormed, Instr.canon, dataLenOk] using hw
  · exact of_canon (by simp [Instr.canon, h])

theorem wRegister (a v : Byte) : Statement (.wRegister a v) := of_canon rfl

theorem wRegisterMulti (a : Byte) (bs : Bytes) : Statement (.wRegisterMulti a bs) := by
  match bs with
  | [] => exact of_canon rfl
  | [v] =>
    refine ⟨rfl, fun hw => ⟨?_, fun d => rfl⟩⟩
    simpa [Instr.wellFormed, Instr.canon, dataLenOk] using hw
  | _ :: _ :: _ => exact of_canon rfl

theorem rRxPayload : Statement .rRxPayload := of_canon rfl

theorem wTxPayload (q : Bytes) : Statement (.wTxPayload q) := of_canon rfl

theorem flushTx : Statement .flushTx := of_canon rfl

theorem flushRx : Statement .flushRx := of_canon rfl

theorem nop : Statement .nop := of_canon rfl

theorem init : Statement .init := of_canon rfl

theorem configure (c p : Int) : Statement (.configure c p) := of_canon rfl

theorem send (p : Bytes) : Statement (.send p) := of_canon rfl

theorem startReceive : Statement .startReceive := of_canon rfl

theorem receive : Statement .receive := of_canon rfl

end Sys2Proof.Laws.Canon
end

