-- ==== Sys2Proof/Laws/Traces.lean ====
section
/-! SUPPORT. How the checkers of Safety.lean read a trace made of pieces: brackets, waits and their sums, failed exchanges
and polls. -/

namespace Sys2Proof.Machine

/-! ## Brackets -/

theorem bracketed_append {es fs : List Event} (h : bracketed es = true) : bracketed (es ++ fs) = bracketed fs := by
  simp only [bracketed, beq_iff_eq] at h
  simp only [bracketed, List.foldl_append, h]

@[simp] theorem bracketed_frameEvents (out : Bytes) (a : Answer) : bracketed (frameEvents out a) = true := rfl

theorem bracketed_framesEvents {outs : List Bytes} {as : List Answer} (h : AllServe outs as) :
    bracketed (framesEvents outs as) = true := by
  induction h with
  | nil => rfl
  | cons _ _ ih => rw [framesEvents_cons, bracketed_append (bracketed_frameEvents _ _), ih]

theorem bracketed_pollEvents (us : List Byte) : bracketed (pollEvents us) = true := by
  induction us with
  | nil => rfl
  | cons v us ih =>
    rw [pollEvents_cons, List.append_assoc, bracketed_append (bracketed_frameEvents _ _), bracketed_append rfl, ih]

/-- A trace that broke the bracket stays broken. -/
theorem broken_stays (es : List Event) : es.foldl BusPhase.next .broken = .broken := by
  induction es with
  | nil => rfl
  | cons e es ih => simpa [BusPhase.next] using ih

/-! ## Sums of waits -/

@[simp] theorem waitSum_append (es fs : List Event) : waitSum (es ++ fs) = waitSum es + waitSum fs := by
  induction es with
  | nil => simp [waitSum]
  | cons e es ih => cases e <;> simp [waitSum, ih, Nat.add_assoc]

@[simp] theorem waitSum_frameEvents (out : Bytes) (a : Answer) : waitSum (frameEvents out a) = 0 := rfl

theorem waitSum_framesEvents {outs : List Bytes} {as : List Answer} (h : AllServe outs as) :
    waitSum (framesEvents outs as) = 0 := by
  induction h with
  | nil => rfl
  | cons _ _ ih => simp [ih]

@[simp] theorem waitSum_pollEvents (us : List Byte) : waitSum (pollEvents us) = us.length := by
  induction us with
  | nil => rfl
  | cons v us ih => simp [pollEvents_cons, ih, waitSum]; omega

/-! ## Polls and failed exchanges -/

theorem countP_isPoll_pollEvents (us : List Byte) : (pollEvents us).countP Event.isPoll = us.length := by
  induction us with
  | nil => rfl
  | cons v us ih => simp [pollEvents_cons, ih, frameEvents, Event.isPoll]

theorem isPoll_frameEvents {out : Bytes} {a : Answer} (h : out ≠ [0xFF]) : ∀ e ∈ frameEvents out a, e.isPoll = false := by
  intro e he
  simp only [frameEvents, List.mem_cons, List.not_mem_nil, or_false] at he
  rcases he with rfl | rfl | rfl
  · rfl
  · simpa [Event.isPoll] using h
  · rfl

theorem failed_frameEvents {out data : Bytes} (h : data.length = out.length) :
    ∀ e ∈ frameEvents out (.ok data), e.failed = false := by
  intro e he
  simp only [frameEvents, List.mem_cons, List.not_mem_nil, or_false] at he
  rcases he with rfl | rfl | rfl
  · rfl
  · simp [Event.failed, h]
  · rfl

theorem failed_framesEvents {outs : List Bytes} {as : List Answer} (h : AllServe outs as) :
    ∀ e ∈ framesEvents outs as, e.failed = false := by
  induction h with
  | nil => simp
  | cons h _ ih =>
    obtain ⟨data, rfl, hl⟩ := h
    intro e he
    rw [framesEvents_cons, List.mem_append] at he
    exact he.elim (failed_frameEvents hl e) (ih e)

theorem failed_pollEvents (us : List Byte) : ∀ e ∈ pollEvents us, e.failed = false := by
  induction us with
  | nil => simp
  | cons v us ih =>
    intro e he
    rw [pollEvents_cons, List.mem_append, List.mem_append] at he
    obtain (he | he) | he := he
    · exact failed_frameEvents (out := [0xFF]) (data := [v]) rfl e he
    · obtain rfl := List.mem_singleton.1 he
      rfl
    · exact ih e he

theorem failed_of_breaks {a : Answer} {p : Params} {out : Bytes} (h : a.breaks p out) :
    (Event.xfer out a).failed = true := by
  obtain ⟨-, rfl | ⟨data, rfl, hl⟩⟩ := h
  · rfl
  · simpa [Event.failed] using hl

/-! ## Mandatory waits -/

/-- A frame that neither sets PWR_UP nor polls asks for no wait after it. -/
def asksNoWait (out : Bytes) : Prop := (∀ v, out = [0x20, v] → v &&& 0x02 = 0) ∧ out ≠ [0xFF]

@[simp] theorem waitsKept_csn (v : Level) (es : List Event) : waitsKept (.line .csn v :: es) = waitsKept es := by
  simp [waitsKept, waitsKeptHere]

@[simp] theorem waitsKept_wait (ms : Nat) (es : List Event) : waitsKept (.wait ms :: es) = waitsKept es := by
  simp [waitsKept, waitsKeptHere]

theorem waitsKept_frame {out : Bytes} {a : Answer} {es : List Event} (h : asksNoWait out) :
    waitsKept (frameEvents out a ++ es) = waitsKept es := by
  simp only [frameEvents, List.cons_append, List.nil_append, waitsKept_csn, waitsKept]
  obtain ⟨h1, h2⟩ := h
  unfold waitsKeptHere
  split <;> simp_all [flagSet, pwrUp]

/-- A CONFIG write that fails, or that a wait of 2 ms follows. -/
theorem waitsKept_config {v : Byte} {a : Answer} {es : List Event} (h : (∀ x y, a ≠ .ok [x, y]) ∨ waitsNext 2 es = true) :
    waitsKept (frameEvents [0x20, v] a ++ es) = waitsKept es := by
  simp only [frameEvents, List.cons_append, List.nil_append, waitsKept_csn, waitsKept]
  unfold waitsKeptHere
  split <;> simp_all [settleMs]

/-- A poll that no other poll follows at once, and no wait shorter than a poll's. -/
theorem waitsKept_poll {a : Answer} {es : List Event} (h : ∀ b rest, es ≠ .line .csn .low :: .xfer [0xFF] b :: rest)
    (hw : ∀ t rest, es = .wait t :: rest → 1 ≤ t) : waitsKept (frameEvents [0xFF] a ++ es) = waitsKept es := by
  simp only [frameEvents, List.cons_append, List.nil_append, waitsKept_csn, waitsKept]
  unfold waitsKeptHere
  split <;> simp_all [pollIntervalMs]

theorem waitsKept_pollEvents (us : List Byte) {es : List Event} (h : waitsKept es = true) :
    waitsKept (pollEvents us ++ es) = true := by
  induction us with
  | nil => exact h
  | cons v us ih =>
    rw [pollEvents_cons, List.append_assoc, List.append_assoc, waitsKept_poll (by simp) (by simp)]
    simpa using ih

/-- What is left of a trace whose waits are kept keeps them. -/
theorem waitsKept_suffix {es fs : List Event} (h : waitsKept (es ++ fs) = true) : waitsKept fs = true := by
  induction es with
  | nil => exact h
  | cons e es ih => exact ih (by simp only [List.cons_append, waitsKept, Bool.and_eq_true] at h; exact h.2)

/-! ## The trace of a request, exactly -/

@[simp] theorem answersOf_append (es fs : List Event) : answersOf (es ++ fs) = answersOf es ++ answersOf fs := by
  induction es with
  | nil => rfl
  | cons e es ih => cases e <;> simp [answersOf, ih]

@[simp] theorem Event.standsFor_self (e : Event) : e.standsFor e = true := by
  cases e <;> simp [Event.standsFor]

@[simp] theorem tracesStandFor_self (es : List Event) : tracesStandFor es es = true := by
  induction es with
  | nil => rfl
  | cons e es ih => simp [tracesStandFor, ih]

theorem tracesStandFor_length {seen es : List Event} (h : tracesStandFor seen es = true) : seen.length = es.length := by
  induction seen generalizing es with
  | nil => cases es <;> simp_all [tracesStandFor]
  | cons f seen ih =>
    cases es with
    | nil => simp [tracesStandFor] at h
    | cons e es =>
      simp only [tracesStandFor, Bool.and_eq_true] at h
      simp [ih h.2]

/-- A trace that shortens a wait of another, or leaves it out, does not stand for it. -/
theorem tracesStandFor_shortened (pre post : List Event) {m n : Nat} (h : m < n) :
    tracesStandFor (pre ++ .wait m :: post) (pre ++ .wait n :: post) = false := by
  induction pre with
  | nil => simp [tracesStandFor, Event.standsFor]; omega
  | cons e pre ih => simp [tracesStandFor, ih]

theorem tracesStandFor_dropped (pre post : List Event) (n : Nat) :
    tracesStandFor (pre ++ post) (pre ++ .wait n :: post) = false := by
  rw [← Bool.not_eq_true]
  intro h
  simpa using tracesStandFor_length h

end Sys2Proof.Machine
end

