-- ==== Sys2Proof/Laws/Replay.lean ====
section
/-! SUPPORT. Every procedure, given again the answers it was given, does again what it did: it emits the same events and
reaches the same state (`Replays`). `exec_again` says it of every instruction. -/

namespace Sys2Proof.Machine

variable {α β : Type}

/-- Two states that agree on the record of R20 but the sequencer, on the parameters and on the exchanges made. -/
structure Alike (s t : State) : Prop where
  radio   : t.radio = s.radio
  channel : t.channel = s.channel
  power   : t.power = s.power
  txAddr  : t.txAddr = s.txAddr
  rxAddr  : t.rxAddr = s.rxAddr
  ce      : t.ce = s.ce
  csn     : t.csn = s.csn
  params  : t.params = s.params
  draws   : t.draws = s.draws

theorem Alike.refl (s : State) : Alike s s := ⟨rfl, rfl, rfl, rfl, rfl, rfl, rfl, rfl, rfl⟩

/-- From a state alike, with the answers of `es` laid down first, `t'` is reached as `t` was: the same events. -/
structure Again (s' : State) (es : List Event) (rest : List Answer) (t t' : State) : Prop where
  alike   : Alike t t'
  trace   : t'.trace = s'.trace ++ es
  answers : t'.answers = rest

/-- The procedure replays: with the answers it was given it does what it did. -/
def Replays (p : Proc α) : Prop :=
  ∀ s, ∃ es, (p s).2.trace = s.trace ++ es ∧
    ∀ s' rest, Alike s s' → s'.answers = answersOf es ++ rest → (p s').1 = (p s).1 ∧ Again s' es rest (p s).2 (p s').2

theorem Replays.ret (a : α) : Replays (Proc.ret a) := fun s =>
  ⟨[], by simp, fun _ _ h ha => ⟨rfl, h, by simp, ha⟩⟩

theorem Replays.fail (r : Reason) : Replays (Proc.fail r : Proc α) := fun s =>
  ⟨[], by simp, fun _ _ h ha => ⟨rfl, h, by simp, ha⟩⟩

theorem Replays.bind {p : Proc α} {k : α → Proc β} (hp : Replays p) (hk : ∀ a, Replays (k a)) : Replays (Proc.bind p k) := by
  intro s
  obtain ⟨es, ht, hs⟩ := hp s
  rcases e : p s with ⟨r | a, t⟩ <;> rw [e] at ht hs
  · refine ⟨es, by simpa [Proc.bind, e] using ht, fun s' rest h ha => ?_⟩
    obtain ⟨h1, h2⟩ := hs s' rest h ha
    rcases e' : p s' with ⟨r' | a', t'⟩ <;> rw [e'] at h1 h2 <;> cases h1
    simpa [Proc.bind, e, e'] using h2
  · obtain ⟨fs, kt, ks⟩ := hk a t
    refine ⟨es ++ fs, by simp only [Proc.bind, e]; rw [kt, ht, List.append_assoc], fun s' rest h ha => ?_⟩
    obtain ⟨h1, h2⟩ := hs s' (answersOf fs ++ rest) h (by simpa using ha)
    rcases e' : p s' with ⟨r' | a', t'⟩ <;> rw [e'] at h1 h2 <;> cases h1
    obtain ⟨k1, k2⟩ := ks t' rest h2.alike h2.answers
    simp only [Proc.bind, e, e']
    exact ⟨k1, k2.alike, by rw [k2.trace, h2.trace, List.append_assoc], k2.answers⟩

theorem Replays.seq : ∀ {ps : List (Proc Unit)}, (∀ p ∈ ps, Replays p) → Replays (Proc.seq ps)
  | [], _ => .ret ()
  | p :: _, h => .bind (h p (by simp)) fun _ => Replays.seq fun q hq => h q (by simp [hq])

theorem Replays.setLine (l : Line) (v : Level) : Replays (setLine l v) := fun _ =>
  ⟨[.line l v], by cases l <;> rfl, fun _ _ h ha => by
    cases l <;>
    exact ⟨rfl, ⟨h.radio, h.channel, h.power, h.txAddr, h.rxAddr, by first | rfl | exact h.ce, by first | rfl | exact h.csn,
      h.params, h.draws⟩, rfl, ha⟩⟩

theorem Replays.wait (ms : Nat) : Replays (wait ms) := fun _ =>
  ⟨[.wait ms], rfl, fun _ _ h ha =>
    ⟨rfl, ⟨h.radio, h.channel, h.power, h.txAddr, h.rxAddr, h.ce, h.csn, h.params, h.draws⟩, rfl, ha⟩⟩

/-- An answer the environment gave is given again when it is laid down. -/
theorem State.answerTo_again {s s' : State} {out : Bytes} {rest : List Answer} (hp : s'.params = s.params)
    (ha : s'.answers = s.answerTo out :: rest) : s'.answerTo out = s.answerTo out := by
  have hf : s.params.transportCanFail = false → (s.answerTo out).fits out = true := by
    intro hc
    cases hr : frameReply out (s.answerTo out) with
    | none => simp [State.canFail_of_frameReply hr] at hc
    | some data =>
      obtain ⟨e, hl⟩ := frameReply_eq_some.1 hr
      simp [e, Answer.fits, hl]
  have : (s'.params.transportCanFail || (s.answerTo out).fits out) = true := by
    rw [hp]
    cases hc : s.params.transportCanFail <;> simp [hc, hf]
  conv_lhs => unfold State.answerTo
  simp only [ha, this, if_true]

theorem Replays.exchange (out : Bytes) : Replays (exchange out) := fun s =>
  ⟨[.xfer out (s.answerTo out)], rfl, fun s' rest h ha => by
    have ha' : s'.answers = s.answerTo out :: rest := ha
    have e := State.answerTo_again h.params ha'
    exact ⟨by simp [exchange_run, e], ⟨h.radio, h.channel, h.power, h.txAddr, h.rxAddr, h.ce, h.csn, h.params,
      by simp [exchange_run, h.draws]⟩, by simp [exchange_run, e], by simp [exchange_run, ha']⟩⟩

/-- A procedure that reads fields alike states share. -/
theorem Replays.of_reads {f : State → Proc α} (hf : ∀ s, Replays (f s)) (hs : ∀ s s', Alike s s' → f s' = f s) :
    Replays fun s => f s s := by
  intro s
  obtain ⟨es, ht, h⟩ := hf s s
  exact ⟨es, ht, fun s' rest ha hr => by simpa only [hs s s' ha] using h s' rest ha hr⟩

theorem Replays.ite {c : Prop} [Decidable c] {p q : Proc α} (hp : Replays p) (hq : Replays q) : Replays (if c then p else q) := by
  split <;> assumption

/-- A procedure that first checks its operands, in a state it does not look at. -/
theorem Replays.check {c : Prop} [Decidable c] {r : Reason} {q : Proc α} (hq : Replays q) :
    Replays fun s => if c then Proc.fail r s else q s := by
  have : (fun s => if c then (Proc.fail r : Proc α) s else q s) = if c then Proc.fail r else q := by
    funext s; split <;> rfl
  rw [this]
  exact .ite (.fail r) hq

/-! ## The procedures -/

theorem Replays.frame (out : Bytes) : Replays (RA.frame out) :=
  .bind (.setLine _ _) fun _ => .bind (.exchange _) fun ans => .bind (.setLine _ _) fun _ => by
    cases ans with
    | fail => exact .fail _
    | ok data => exact .ite (.ret _) (.fail _)

theorem Replays.frameThen (out : Bytes) (f : Bytes → α) : Replays (Proc.bind (RA.frame out) fun ans => Proc.ret (f ans)) :=
  .bind (.frame out) fun _ => .ret _

theorem Replays.read (a : Byte) : Replays (RA.read a) :=
  .of_reads (f := fun s s' => if 0x1F < a then Proc.fail .length s' else
    Proc.bind (RA.frame (cmdRead a :: dummies s.params.dummyByte 1)) (fun ans => Proc.ret (ans.getD 1 0)) s')
    (fun _ => .check (.frameThen _ _)) fun _ _ h => by simp only [h.params]

theorem Replays.readMulti (a : Byte) (n : Int) : Replays (RA.readMulti a n) :=
  .of_reads (f := fun s s' => if 0x1F < a ∨ n < 1 ∨ 32 < n then Proc.fail .length s' else
    Proc.bind (RA.frame (cmdRead a :: dummies s.params.dummyByte n.toNat)) (fun ans => Proc.ret ans.tail) s')
    (fun _ => .check (.frameThen _ _)) fun _ _ h => by simp only [h.params]

theorem Replays.write (a v : Byte) : Replays (RA.write a v) := .check (.frameThen _ _)

theorem Replays.writeMulti (a : Byte) (bs : Bytes) : Replays (RA.writeMulti a bs) := .check (.frameThen _ _)

theorem Replays.writePayload (q : Bytes) : Replays (RA.writePayload q) := .check (.frameThen _ _)

theorem Replays.readPayload : Replays RA.readPayload :=
  .of_reads (f := fun s => Proc.bind (RA.frame (cmdReadPayload :: dummies s.params.dummyByte 32)) fun ans => Proc.ret ans.tail)
    (fun _ => .frameThen _ _) fun _ _ h => by simp only [h.params]

theorem Replays.flushTx : Replays RA.flushTx := .frameThen _ _

theorem Replays.flushRx : Replays RA.flushRx := .frameThen _ _

theorem Replays.status : Replays RA.status := .frameThen _ _

theorem Replays.enterRadio (r : RadioState) : Replays (enterRadio r) := fun s =>
  ⟨[], by simp [Machine.enterRadio], fun _ _ h ha =>
    ⟨rfl, ⟨rfl, h.channel, h.power, h.txAddr, h.rxAddr, h.ce, h.csn, h.params, h.draws⟩, by simp [Machine.enterRadio], ha⟩⟩

theorem Replays.initialize : Replays MC.initialize := by
  refine .of_reads (f := fun s => Proc.seq
    [Machine.setLine .ce .low, Machine.setLine .csn .high, Machine.wait startupMs, RA.write Reg.config.addr configInit,
     RA.write Reg.setupAw.addr setupAw5, RA.write Reg.rfCh.addr (channelByte s.channel),
     RA.write Reg.rfSetup.addr (initSetup s.params.rfSetupBase s.power), RA.writeMulti Reg.txAddr.addr s.txAddr.toList,
     RA.writeMulti Reg.rxAddrP0.addr s.rxAddr.toList, RA.write Reg.enAa.addr pipe0, RA.write Reg.enRxaddr.addr pipe0,
     RA.write Reg.rxPwP0.addr rxPayloadWidth, RA.write Reg.status.addr allFlags, RA.flushTx, RA.flushRx])
    (fun s => .seq ?_) fun _ _ h => by simp only [h.channel, h.power, h.txAddr, h.rxAddr, h.params]
  simp only [List.forall_mem_cons]
  exact ⟨.setLine _ _, .setLine _ _, .wait _, .write _ _, .write _ _, .write _ _, .write _ _, .writeMulti _ _,
    .writeMulti _ _, .write _ _, .write _ _, .write _ _, .write _ _, .flushTx, .flushRx, by simp⟩

theorem Replays.enterTransmit : Replays MC.enterTransmit := .seq <| by
  simp only [List.forall_mem_cons]
  exact ⟨.setLine _ _, .write _ _, .wait _, .enterRadio _, by simp⟩

theorem Replays.enterReceive : Replays MC.enterReceive := .seq <| by
  simp only [List.forall_mem_cons]
  exact ⟨.setLine _ _, .write _ _, .wait _, .setLine _ _, .enterRadio _, by simp⟩

theorem Replays.poll : ∀ n, Replays (PT.poll n)
  | 0 => .fail _
  | n + 1 => .bind .status fun _ =>
      .ite (.bind (.write _ _) fun _ => .ite (.ret _) (.fail _)) (.bind (.wait _) fun _ => Replays.poll n)

theorem Replays.transmit (p : Bytes) : Replays (PT.transmit p) := .bind (.seq <| by
  simp only [List.forall_mem_cons]
  exact ⟨.flushTx, .writePayload _, .setLine _ _, .wait _, .setLine _ _, by simp⟩) fun _ => .poll _

theorem Replays.receive : Replays PT.receive := .bind .status fun _ =>
  .ite (.bind (.write _ _) fun _ => .bind .readPayload fun _ => .ret _) (.ret _)

theorem Replays.apply (c p : Int) : Replays (RC.apply c p) :=
  .bind (.write _ _) fun _ => .bind (.read _) fun _ => .write _ _

/-! ## The instructions -/

/-- The instruction emits `es` from `s`, and again from any state alike with the answers of `es` laid down. -/
def EmitsAgain (i : Instr) (s : State) : Prop :=
  ∃ es t, exec i s = .next t ∧ t.trace = s.trace ++ es ∧
    ∀ s', Alike s s' → s'.answers = answersOf es → ∃ t', exec i s' = .next t' ∧ t'.trace = s'.trace ++ es

theorem access_again {i : Instr} {p : Proc Bytes} (hp : Replays p) (he : ∀ s, exec i s = .next (runAccess p s)) (s : State) :
    EmitsAgain i s := by
  obtain ⟨es, ht, h⟩ := hp s
  exact ⟨es, _, he s, ht, fun s' hs ha => ⟨_, he s', (h s' [] hs (by simpa using ha)).2.trace⟩⟩

/-- A handler that runs one procedure and then writes no trace. -/
theorem request_again {i : Instr} {s : State} {h : State → Response × State} {p : Proc α} (hp : Replays p)
    (he : ∀ s, exec i s = .next (serve h s)) (hh : ∀ s', Alike s s' → (h s').2.trace = (p s').2.trace) : EmitsAgain i s := by
  obtain ⟨es, ht, k⟩ := hp s
  exact ⟨es, _, he s, (hh s (.refl s)).trans ht, fun s' hs ha =>
    ⟨_, he s', (hh s' hs).trans (k s' [] hs (by simpa using ha)).2.trace⟩⟩

theorem guarded_again {i : Instr} {s : State} {h : State → Response × State} {p : Proc α} (hp : Replays p)
    (he : ∀ s, exec i s = .next (serve (DRV.guarded h) s)) (hh : ∀ s', (h s').2.trace = (p s').2.trace) :
    EmitsAgain i s := by
  by_cases hr : s.initialized
  · refine request_again hp he fun s' hs => ?_
    have hr' : s'.initialized = true := by rw [← hr]; simp [State.initialized, hs.radio]
    simp [DRV.guarded, hr', hh]
  · refine request_again (Replays.ret ()) he fun s' hs => ?_
    have hr' : s'.initialized = false := by rw [Bool.not_eq_true] at hr; rw [← hr]; simp [State.initialized, hs.radio]
    simp [DRV.guarded, hr']

theorem configure_again (c p : Int) (s : State) : EmitsAgain (.configure c p) s := by
  by_cases h : (RC.validate c p && s.initialized) = true
  · simp only [Bool.and_eq_true] at h
    refine request_again (.apply c p) (h := DRV.configure c p) (fun _ => rfl) fun s' hs => ?_
    have hr' : s'.initialized = true := by rw [← h.2]; simp [State.initialized, hs.radio]
    simp only [DRV.configure, h.1, hr', if_true]
    rcases RC.apply c p s' with ⟨_ | _, _⟩ <;> rfl
  · refine request_again (Replays.ret ()) (h := DRV.configure c p) (fun _ => rfl) fun s' hs => ?_
    have hr' : s'.initialized = s.initialized := by simp [State.initialized, hs.radio]
    simp only [DRV.configure, hr']
    cases hv : RC.validate c p <;> cases hi : s.initialized <;> simp_all

/-- Every instruction emits again what it emitted, given the same answers. -/
theorem exec_again (i : Instr) (s : State) : EmitsAgain i s := by
  cases i with
  | rRegister a => exact access_again (.bind (.read a) fun _ => .ret _) (fun _ => rfl) s
  | rRegisterMulti a n => exact access_again (.readMulti a n) (fun _ => rfl) s
  | wRegister a v => exact access_again (.bind (.write a v) fun _ => .ret _) (fun _ => rfl) s
  | wRegisterMulti a bs => exact access_again (.bind (.writeMulti a bs) fun _ => .ret _) (fun _ => rfl) s
  | rRxPayload => exact access_again .readPayload (fun _ => rfl) s
  | wTxPayload q => exact access_again (.bind (.writePayload q) fun _ => .ret _) (fun _ => rfl) s
  | flushTx => exact access_again (.bind .flushTx fun _ => .ret _) (fun _ => rfl) s
  | flushRx => exact access_again (.bind .flushRx fun _ => .ret _) (fun _ => rfl) s
  | nop => exact access_again (.bind .status fun _ => .ret _) (fun _ => rfl) s
  | init =>
    refine request_again .initialize (h := DRV.init) (fun _ => rfl) fun s' _ => ?_
    unfold DRV.init
    rcases MC.initialize s' with ⟨_ | _, _⟩ <;> rfl
  | configure c p => exact configure_again c p s
  | send p => exact guarded_again (.bind .enterTransmit fun _ => .transmit p) (fun _ => rfl) fun _ => rfl
  | startReceive => exact guarded_again .enterReceive (fun _ => rfl) fun _ => rfl
  | receive =>
    refine guarded_again .receive (fun _ => rfl) fun s' => ?_
    rcases PT.receive s' with ⟨_ | _, _⟩ <;> rfl

end Sys2Proof.Machine
end

