-- ==== Sys2Proof/Tests/Slice0.lean ====
section
/-! SUPPORT. The model's own tests. Words and expected results are the spec's: the encodings of spec/30_encoding.md and the
vectors V-… of spec/95_test_vectors.md, in the instantiation TVI of spec/00_scope.md R7. The last part has one witness per
statement with hypotheses: a concrete state and operands that meet them together. -/

namespace Sys2Proof.Tests
open Sys2Proof Sys2Proof.Machine

/-! ## Small states -/

/-- The test-vector instantiation TVI (R7). -/
def tvi : Params :=
  { dummyByte := 0xFF, rfSetupRest := 0x00, defaultChannel := 2, defaultPower := 0,
    defaultAddress := #v[0xE7, 0xE7, 0xE7, 0xE7, 0xE7], transportCanFail := true }

/-- S0 of spec/95. -/
def s0 : State := State.construct tvi

/-- S_init of spec/95. -/
def sInit : State := { s0 with radio := .standby, ce := .low, csn := .high }

/-- S0 with a transport that cannot fail. -/
def sSure : State := { s0 with params := { tvi with transportCanFail := false } }

/-- `s` with these answers laid down. -/
def answered (s : State) (as : List Answer) : State := { s with answers := as }

/-- `s` with this program presented. -/
def presented (s : State) (p : Program) : State := { s with port := p }

/-- An Ok answer of `n` bytes the block ignores. -/
def zeros (n : Nat) : Answer := .ok (List.replicate n 0x00)

/-- Ok answers to the frames `outs`. -/
def served (outs : List Bytes) : List Answer := outs.map fun out => zeros out.length

/-- The answers that let a SEND reach its poll. -/
def launched (as : List Answer) : List Answer := zeros 2 :: zeros 1 :: zeros 33 :: as

/-- The state an instruction leaves. -/
def ran (i : Instr) (s : State) : State :=
  match exec i s with
  | .next t => t
  | .fault _ => s
  | .refused _ => s

/-- The bytes sent by the exchanges of a trace, in order. -/
def sent : List Event → List Bytes
  | [] => []
  | .xfer out _ :: es => out :: sent es
  | .line _ _ :: es => sent es
  | .wait _ :: es => sent es

/-! ## WellFormed refuses, one ill-formed term per check (R63, R93) -/

theorem test_illformed_read_address : (Instr.rRegister 0x20).wellFormed = false := by decide
theorem test_illformed_read_length_zero : (Instr.rRegisterMulti 0x0A 0).wellFormed = false := by decide
theorem test_illformed_read_length_large : (Instr.rRegisterMulti 0x0A 33).wellFormed = false := by decide
theorem test_illformed_read_multi_address : (Instr.rRegisterMulti 0x20 5).wellFormed = false := by decide
theorem test_illformed_write_address : (Instr.wRegister 0x20 0x00).wellFormed = false := by decide
theorem test_illformed_write_length_zero : (Instr.wRegisterMulti 0x10 []).wellFormed = false := by decide
theorem test_illformed_write_length_large : (Instr.wRegisterMulti 0x10 (List.replicate 33 0)).wellFormed = false := by decide
theorem test_illformed_write_multi_address : (Instr.wRegisterMulti 0x20 [1, 2]).wellFormed = false := by decide
theorem test_illformed_payload_length : (Instr.wTxPayload (List.replicate 31 0)).wellFormed = false := by decide

/-! ## Decoding, words written out from R97 and R98 -/

/-- `000aaaaa` with `a = 00110`, one dummy byte. -/
theorem test_decode_rRegister : decode (.frame [0b00000110, 0xFF]) = .instr (.rRegister 0b00110) := by decide
/-- `000aaaaa` with `a = 11111`, two dummy bytes. -/
theorem test_decode_rRegisterMulti : decode (.frame [0b00011111, 0xFF, 0xFF]) = .instr (.rRegisterMulti 0b11111 2) := by decide
/-- `001aaaaa` with `a = 00101`. -/
theorem test_decode_wRegister : decode (.frame [0b00100101, 0x4C]) = .instr (.wRegister 0b00101 0x4C) := by decide
/-- `001aaaaa` with `a = 10000`. -/
theorem test_decode_wRegisterMulti :
    decode (.frame [0b00110000, 1, 2, 3, 4, 5]) = .instr (.wRegisterMulti 0b10000 [1, 2, 3, 4, 5]) := by decide
theorem test_decode_rRxPayload : decode (.frame (0b01100001 :: List.replicate 32 0xFF)) = .instr .rRxPayload := by decide
theorem test_decode_wTxPayload :
    decode (.frame (0b10100000 :: List.replicate 32 7)) = .instr (.wTxPayload (List.replicate 32 7)) := by decide
theorem test_decode_flushTx : decode (.frame [0b11100001]) = .instr .flushTx := by decide
theorem test_decode_flushRx : decode (.frame [0b11100010]) = .instr .flushRx := by decide
theorem test_decode_nop : decode (.frame [0b11111111]) = .instr .nop := by decide
theorem test_decode_init : decode (.request ⟨0b000, 1, 1, []⟩) = .instr .init := by decide
theorem test_decode_configure : decode (.request ⟨0b001, 76, 3, []⟩) = .instr (.configure 76 3) := by decide
theorem test_decode_send : decode (.request ⟨0b010, 0, 0, [1, 2, 3]⟩) = .instr (.send [1, 2, 3]) := by decide
theorem test_decode_startReceive : decode (.request ⟨0b011, 0, 0, []⟩) = .instr .startReceive := by decide
theorem test_decode_receive : decode (.request ⟨0b100, 0, 0, []⟩) = .instr .receive := by decide

/-- U11: a register frame without a data byte, and a payload write of 31 bytes, are calls their primitive rejects. -/
theorem test_decode_bad_lengths :
    decode (.frame [0b00011111]) = .instr (.rRegisterMulti 0b11111 0) ∧
    decode (.frame (0b10100000 :: List.replicate 31 9)) = .instr (.wTxPayload (List.replicate 31 9)) := by decide

/-- R100: the ends of the four unused ranges are no commands. -/
theorem test_decode_unused :
    [0x40, 0x60, 0x62, 0x9F, 0xA1, 0xE0, 0xE3, 0xFE].all (fun c => commandOf c == none) = true := by decide

/-- No two rows of the opcode map overlap: some bit both fix has different values in them. -/
theorem test_rows_disjoint :
    commandRows.Pairwise (fun r q => r.pattern &&& (r.mask &&& q.mask) ≠ q.pattern &&& (r.mask &&& q.mask)) := by decide

/-- V-ENC-5: the write command bytes of the ten registers. -/
theorem test_write_commands :
    allRegs.map (fun r => cmdWrite r.addr) = [0x20, 0x21, 0x22, 0x23, 0x25, 0x26, 0x27, 0x2A, 0x30, 0x31] := by decide

/-- V-ENC-2 and V-ENC-4. -/
theorem test_wire32 : wire32 [1, 2, 3] = [1, 2, 3] ++ List.replicate 29 0 ∧
    wire32 (List.replicate 40 5) = List.replicate 32 5 := by decide

/-- V-ENC-6. -/
theorem test_setPower : setPower 0xFF 0 = 0xF9 ∧ setPower 0xFF 2 = 0xFD ∧ setPower 0x27 1 = 0x23 ∧ setPower 0x0F 3 = 0x0F := by
  decide

/-- V-ENC-7: base 0x08, power 2. -/
theorem test_initSetup : initSetup 0x08 2 = 0x0C := by decide

/-- The codes of RadioState (R21), of the results and of the reasons (R99). -/
theorem test_codes :
    [RadioState.uninitialized, .poweredDown, .standby, .transmitting, .listening].map RadioState.code = [0, 1, 2, 3, 4] ∧
    [ResultCode.ok, .validationError, .notReady, .failure].map ResultCode.code = [0, 1, 2, 3] ∧
    [Reason.transport, .length, .maxRetries, .timeout].map Reason.code = [0, 1, 2, 3] ∧
    Response.ok.reasonCode = 0 := by decide

/-! ## The bus commands (V-RA) -/

/-- V-RA-1 and V-RA-2. -/
theorem test_rRegister :
    (ran (.rRegister 0x06) (answered s0 [.ok [0x0E, 0x07]])).results = [.accessOk [0x07]] ∧
    (ran (.rRegister 0x06) (answered s0 [.fail])).trace = frameEvents [0x06, 0xFF] .fail := by decide
/-- V-RA-3. -/
theorem test_rRegister_length : (ran (.rRegister 0x20) s0).results = [.accessFailed .length] := by decide
/-- W3's read. -/
theorem test_rRegisterMulti :
    (ran (.rRegisterMulti 0x10 5) (answered s0 [.ok [0, 0xA1, 0xA2, 0xA3, 0xA4, 0xA5]])).results =
      [.accessOk [0xA1, 0xA2, 0xA3, 0xA4, 0xA5]] := by decide
/-- V-RA-7. -/
theorem test_rRegisterMulti_length : (ran (.rRegisterMulti 0x0A 0) s0).results = [.accessFailed .length] := by decide
/-- V-RA-4. -/
theorem test_wRegister : sent (ran (.wRegister 0x1F 0x00) (answered s0 [zeros 2])).trace = [[0x3F, 0x00]] := by decide
/-- W3's write. -/
theorem test_wRegisterMulti :
    sent (ran (.wRegisterMulti 0x10 [0xA1, 0xA2]) (answered s0 [zeros 3])).trace = [[0x30, 0xA1, 0xA2]] := by decide
/-- V-RA-10. -/
theorem test_wRegisterMulti_length : (ran (.wRegisterMulti 0x10 []) s0).results = [.accessFailed .length] := by decide
/-- V-RA-14: an answer of 32 bytes breaks the contract. -/
theorem test_rRxPayload_breach : (ran .rRxPayload (answered s0 [zeros 32])).results = [.accessFailed .transport] := by decide
/-- R129: the 32 bytes after the status. -/
theorem test_rRxPayload :
    (ran .rRxPayload (answered s0 [.ok (0x40 :: List.replicate 32 0x5A)])).results = [.accessOk (List.replicate 32 0x5A)] := by
  decide
/-- V-RA-13. -/
theorem test_wTxPayload_length : (ran (.wTxPayload (List.replicate 31 0)) s0).results = [.accessFailed .length] := by decide
/-- R128: a 33-byte frame. -/
theorem test_wTxPayload :
    sent (ran (.wTxPayload (List.replicate 32 9)) (answered s0 [zeros 33])).trace = [0xA0 :: List.replicate 32 9] := by decide
/-- V-RA-12. -/
theorem test_flushTx : (ran .flushTx (answered s0 [zeros 1])).trace = frameEvents [0xE1] (zeros 1) := by decide
/-- V-RA-12. -/
theorem test_flushRx : (ran .flushRx (answered s0 [zeros 1])).trace = frameEvents [0xE2] (zeros 1) := by decide
/-- V-RA-11. -/
theorem test_nop : (ran .nop (answered s0 [.ok [0x70]])).results = [.accessOk [0x70]] := by decide

/-! ## The requests (V-MC, V-PT, V-RC, V-DRV) -/

/-- V-MC-1: the frames of T_INIT. -/
theorem test_init :
    sent (ran .init (answered s0 (served (initFrames s0)))).trace =
      [[0x20, 0x08], [0x23, 0x03], [0x25, 0x02], [0x26, 0x00], [0x30, 0xE7, 0xE7, 0xE7, 0xE7, 0xE7],
       [0x2A, 0xE7, 0xE7, 0xE7, 0xE7, 0xE7], [0x21, 0x01], [0x22, 0x01], [0x31, 0x20], [0x27, 0x70], [0xE1], [0xE2]] := by
  decide
/-- V-MC-6: INIT from Listening with frame 1 failed. -/
theorem test_init_failed :
    (ran .init (answered { sInit with radio := .listening } [.fail])).radio = .uninitialized ∧
    (ran .init (answered sInit [.fail])).trace.length = 6 := by decide
/-- V-RC-3. -/
theorem test_configure :
    sent (ran (.configure 10 1) (answered sInit [zeros 2, .ok [0, 0x27], zeros 2])).trace =
      [[0x25, 0x0A], [0x06, 0xFF], [0x26, 0x23]] := by decide
/-- V-RC-5: channel and power keep their values. -/
theorem test_configure_failed :
    (ran (.configure 10 1) (answered sInit [zeros 2, .fail])).channel = 2 ∧
    (ran (.configure 10 1) (answered sInit [zeros 2, .fail])).results = [.response (.failure .transport)] := by decide
/-- V-PT-4: TX_DS wins, at the second poll: 5 + 19 events. -/
theorem test_send :
    (ran (.send [1, 2, 3]) (answered sInit (launched [.ok [0x0E], .ok [0x3E], zeros 2]))).results = [.response .ok] ∧
    (ran (.send [1, 2, 3]) (answered sInit (launched [.ok [0x0E], .ok [0x3E], zeros 2]))).trace.length = 5 + 19 := by decide
/-- V-PT-3: MAX_RT alone, at the third poll. -/
theorem test_send_maxRetries :
    (ran (.send [1, 2, 3]) (answered sInit (launched [.ok [0x0E], .ok [0x0E], .ok [0x1E], zeros 2]))).results =
      [.response (.failure .maxRetries)] := by decide
/-- V-MC-5. -/
theorem test_startReceive :
    (ran .startReceive (answered sInit [zeros 2])).trace =
      [.line .ce .low] ++ frameEvents [0x20, 0x0B] (zeros 2) ++ [.wait 2, .line .ce .high] := by decide
/-- V-MC-5, failed. -/
theorem test_startReceive_failed :
    (ran .startReceive (answered sInit [.fail])).radio = .standby ∧
    (ran .startReceive (answered sInit [.fail])).trace.length = 4 := by decide
/-- V-PT-12. -/
theorem test_receive :
    (ran .receive (answered sInit [.ok [0x40], zeros 2, .ok (0x40 :: List.replicate 32 0x2F)])).results =
      [.response { code := .ok, reason := none, found := true, data := List.replicate 32 0x2F }] := by decide
/-- V-PT-14. -/
theorem test_receive_failed :
    sent (ran .receive (answered sInit [.ok [0x40], .fail])).trace = [[0xFF], [0x27, 0x40]] := by decide

/-! ## The port and the opcode table's words (log 11) -/

/-- V-DRV-2. -/
theorem test_unassigned : step (presented s0 (.requests [⟨0b101, 0, 0, []⟩])) = .refused (.unassignedRequest 0b101) := by rfl

/-- The first step from reset with a table word placed runs it. -/
theorem test_table_word_from_reset : ∃ t, step (State.reset.withFetchWord 8 0x61) = .next t := ⟨_, rfl⟩

/-- Each row's word, with no operand bits set: the rows of one command byte have one word, which is one instruction
(log 11, log 13). -/
theorem test_table_words :
    [0x06, 0x20, 0x61, 0xA0, 0xE1, 0xE2, 0xFF, 0, 1, 2, 3, 4].map (decodeTableWord 8) =
      [.rRegister 6, .wRegister 0 0, .rRxPayload, .wTxPayload (List.replicate 32 0), .flushTx, .flushRx, .nop, .init,
       .configure 0 0, .send [], .startReceive, .receive].map some := by decide

/-! ## The checkers refuse what is no trace of the block (R100, R130, R310; U1, U12) -/

theorem test_checker_unknown_register : traceOk 0xFF (frameEvents [0x24, 0x00] (zeros 2)) = false := by decide
theorem test_checker_nested_wait :
    traceOk 0xFF [.line .csn .low, .wait 1, .xfer [0xE1] (zeros 1), .line .csn .high] = false := by decide
theorem test_checker_short_settle :
    traceOk 0xFF (frameEvents [0x20, 0x0A] (zeros 2) ++ [.wait 1] ++ frameEvents [0xE1] (zeros 1)) = false := by decide
theorem test_checker_short_startup :
    traceOk 0xFF ([.line .ce .low, .line .csn .high, .wait 99] ++ frameEvents [0x20, 0x08] (zeros 2)) = false := by decide
theorem test_checker_polls_without_wait :
    traceOk 0xFF (frameEvents [0xFF] (zeros 1) ++ frameEvents [0xFF] (zeros 1)) = false ∧
    traceOk 0xFF (frameEvents [0xFF] (zeros 1) ++ [.wait 0] ++ frameEvents [0xFF] (zeros 1)) = false := by decide
theorem test_checker_no_startup :
    traceOk 0xFF (framesEvents (initFrames sInit) (served (initFrames sInit))) = false ∧
    traceOk 0xFF (initSetupEvents ++ framesEvents (initFrames sInit) (served (initFrames sInit))) = true := by decide

/-- A settle wait longer than 2 ms is a trace of START_RECEIVE, a shorter one is none (R165, R310). -/
theorem test_emits_settle :
    sInit.emits .startReceive ([.line .ce .low] ++ frameEvents [0x20, 0x0B] (zeros 2) ++ [.wait 3, .line .ce .high]) = true ∧
    sInit.emits .startReceive ([.line .ce .low] ++ frameEvents [0x20, 0x0B] (zeros 2) ++ [.wait 1, .line .ce .high]) = false := by
  decide

/-! ## Witnesses -/

/-- The instruction ran from `s` to `t`, emitted `es` and handed over `r`. -/
abbrev Runs (i : Instr) (s : State) (es : List Event) (r : Result) (t : State) : Prop := exec i s = .next t ∧ Did s es r t

/-- The instruction run from `s` hands over `r`. -/
abbrev RunsTo (i : Instr) (s : State) (r : Result) : Prop := Runs i s (ran i s).trace r (ran i s)

/-- Every instruction answers a next state. -/
theorem exec_ran (i : Instr) (s : State) : exec i s = .next (ran i s) := by
  obtain ⟨es, r, rd, ce, csn, -, h⟩ := exec_behaviour i s
  simp only [ran, h]

/-- From a state with nothing observed, what an instruction did is its whole trace and its one result. -/
theorem runs_ran {i : Instr} {s : State} {r : Result} (ht : s.trace = []) (hs : s.results = [])
    (hr : (ran i s).results = [r]) : RunsTo i s r :=
  ⟨exec_ran i s, ⟨by rw [ht, List.nil_append], by rw [hs, hr, List.nil_append]⟩⟩

theorem served_serves (outs : List Bytes) : List.Forall₂ (fun out a => Answer.serves a out) outs (served outs) := by
  induction outs with
  | nil => exact .nil
  | cons out outs ih => exact .cons ⟨_, rfl, by simp⟩ ih

theorem serves_zeros {out : Bytes} {n : Nat} (h : n = out.length) : (zeros n).serves out := ⟨_, rfl, by simp [h]⟩

theorem fail_breaks (out : Bytes) : Answer.fail.breaks tvi out := ⟨rfl, .inl rfl⟩

theorem unflagged_replicate (n : Nat) : Unflagged (List.replicate n 0x4E) := by
  intro v hv
  rw [List.eq_of_mem_replicate hv]
  decide

/-- SEND, START_RECEIVE, RECEIVE, CONFIGURE, INIT and a bus command, each run to its outcomes. -/
theorem runs_init :
    RunsTo .init (answered s0 (served (initFrames s0))) (.response .ok) :=
  runs_ran (s := answered s0 (served (initFrames s0))) rfl rfl (by decide)
theorem runs_init_bad :
    RunsTo .init (answered s0 [.fail]) (.response (.failure .transport)) :=
  runs_ran (s := answered s0 [.fail]) rfl rfl (by decide)
theorem runs_configure :
    RunsTo (.configure 125 3) (answered sInit [zeros 2, zeros 2, zeros 2]) (.response .ok) :=
  runs_ran (s := answered sInit [zeros 2, zeros 2, zeros 2]) rfl rfl (by decide)
theorem runs_configure_invalid :
    RunsTo (.configure 126 0) sInit (.response .validationError) :=
  runs_ran (s := sInit) rfl rfl (by decide)
theorem runs_configure_cached :
    RunsTo (.configure 0 0) s0 (.response .ok) :=
  runs_ran (s := s0) rfl rfl (by decide)
theorem runs_send :
    RunsTo (.send [1]) (answered sInit (launched [.ok [0x20], zeros 2])) (.response .ok) :=
  runs_ran (s := answered sInit (launched [.ok [0x20], zeros 2])) rfl rfl (by decide)
theorem runs_send_maxRetries :
    RunsTo (.send [1]) (answered sInit (launched [.ok [0x10], zeros 2])) (.response (.failure .maxRetries)) :=
  runs_ran (s := answered sInit (launched [.ok [0x10], zeros 2])) rfl rfl (by decide)
theorem runs_send_enter_bad :
    RunsTo (.send []) (answered sInit [.fail]) (.response (.failure .transport)) :=
  runs_ran (s := answered sInit [.fail]) rfl rfl (by decide)
theorem runs_send_launch_bad :
    RunsTo (.send []) (answered sInit [zeros 2, .fail]) (.response (.failure .transport)) :=
  runs_ran (s := answered sInit [zeros 2, .fail]) rfl rfl (by decide)
theorem runs_startReceive :
    RunsTo .startReceive (answered sInit [zeros 2]) (.response .ok) :=
  runs_ran (s := answered sInit [zeros 2]) rfl rfl (by decide)
theorem runs_startReceive_bad :
    RunsTo .startReceive (answered sInit [.fail]) (.response (.failure .transport)) :=
  runs_ran (s := answered sInit [.fail]) rfl rfl (by decide)
theorem runs_receive :
    RunsTo .receive (answered sInit [.ok [0x40], zeros 2, zeros 33])
      (.response { code := .ok, reason := none, found := true, data := List.replicate 32 0 }) :=
  runs_ran (s := answered sInit [.ok [0x40], zeros 2, zeros 33]) rfl rfl (by decide)
theorem runs_receive_nothing : RunsTo .receive (answered sInit [.ok [0x0E]]) (.response .ok) :=
  runs_ran (s := answered sInit [.ok [0x0E]]) rfl rfl (by decide)
theorem runs_not_ready : RunsTo .receive s0 (.response .notReady) := runs_ran (s := s0) rfl rfl (by decide)
theorem runs_nop : RunsTo .nop (answered s0 [.ok [0x0E]]) (.accessOk [0x0E]) :=
  runs_ran (s := answered s0 [.ok [0x0E]]) rfl rfl (by decide)
theorem runs_nop_bad : RunsTo .nop (answered s0 [.fail]) (.accessFailed .transport) :=
  runs_ran (s := answered s0 [.fail]) rfl rfl (by decide)
theorem runs_read_bad : RunsTo (.rRegister 0x20) sSure (.accessFailed .length) := runs_ran (s := sSure) rfl rfl (by decide)
theorem runs_sure : RunsTo .flushRx (answered sSure [.fail]) (.accessOk []) :=
  runs_ran (s := answered sSure [.fail]) rfl rfl (by decide)

/-- SEND with 1000 unflagged polls times out. -/
theorem runs_send_timeout : ∃ s es t, Runs (.send [1]) s es (.response (.failure .timeout)) t := by
  have ran : ∀ us, Unflagged us → pollLimit = 0 + us.length →
      (ran (.send [1]) (answered sInit (launched (pollAnswers us ++ [])))).results = [.response (.failure .timeout)] := by
    intro us hu hn
    obtain ⟨t, ht, hcsn, hans, hres⟩ : ∃ t, Proc.bind MC.enterTransmit (fun _ => PT.transmit [1])
        (answered sInit (launched (pollAnswers us ++ []))) = PT.poll pollLimit t ∧
        t.csn = .high ∧ t.answers = pollAnswers us ++ [] ∧ t.results = [] := ⟨_, rfl, rfl, rfl, rfl⟩
    obtain ⟨u, hu', hR⟩ := poll_unflagged_run us 0 t [] hcsn hu hans
    have e : DRV.send [1] (answered sInit (launched (pollAnswers us ++ []))) = (.failure .timeout, u) := by
      rw [hn] at ht
      simp only [DRV.send, DRV.guarded, if_pos (show (answered sInit (launched (pollAnswers us ++ []))).initialized = true from rfl),
        ht.trans hu']
      rfl
    show (serve (DRV.send [1]) _).results = _
    rw [serve_of e, State.finish_results, hR.moved.results, hres]
    rfl
  exact ⟨_, _, _, runs_ran rfl rfl (ran (List.replicate 1000 0x4E) (unflagged_replicate _) 
    (by rw [List.length_replicate]; rfl))⟩

/-- SEND with 1000 unflagged polls meets the hypotheses of its time-out (`SendTimesOutAfterAThousandPolls`). -/
theorem witness_SendTimesOutAfterAThousandPolls :
    sInit.radio ≠ .uninitialized ∧ Unflagged (List.replicate 1000 0x4E) ∧ (List.replicate 1000 (0x4E : Byte)).length = 1000 ∧
    (answered sInit (launched (pollAnswers (List.replicate 1000 0x4E) ++ []))).answers =
      zeros 2 :: zeros 1 :: zeros 33 :: (pollAnswers (List.replicate 1000 0x4E) ++ []) ∧
    (zeros 2).serves [0x20, 0x0A] ∧ (zeros 1).serves [0xE1] ∧ (zeros 33).serves (0xA0 :: wire32 [1]) :=
  ⟨by decide, unflagged_replicate _, List.length_replicate, rfl, serves_zeros rfl, serves_zeros rfl, serves_zeros rfl⟩

theorem witness_DecodeOfEncodeIsTheInstruction :
    (Instr.rRegisterMulti 0x1F 32).wellFormed = true ∧ (Instr.wRegisterMulti 0x00 [1]).wellFormed = true ∧
    (Instr.configure (-1) 400).wellFormed = true := by decide

theorem witness_EncodeOfDecodeIsTheItem :
    (decode (.frame [0x1F, 1]) = .instr (.rRegister 0x1F) ∧ (Instr.rRegister 0x1F).readsData = true) ∧
    (decode (.frame [0x20, 1]) = .instr (.wRegister 0x00 1) ∧ (Instr.wRegister 0x00 1).readsData = false) ∧
    (decode (.frame [0x3F]) = .instr (.wRegisterMulti 0x1F []) ∧ (Instr.wRegisterMulti 0x1F []).wellFormed = false ∧
      (0x3F : Byte).toNat < 0x40 ∧ ([] : Bytes).length = 0) ∧
    decode (.request ⟨0b001, 126, -1, [4]⟩) = .instr (.configure 126 (-1)) ∧
    decode (.request ⟨0b010, 9, 9, [4]⟩) = .instr (.send [4]) := by decide

theorem witness_CommandBytesAreUnambiguous :
    ∃ r ∈ commandRows, r.hits 0x3F = true ∧ commandOf 0x40 = none ∧ commandOf 0xFE = none := by decide

theorem witness_RegisterMapIsFixed : (0x1F : Byte) ≤ 0x1F ∧ (0x12 : Byte) ≤ 0x1F ∧ regAt 0x11 = some .rxPwP0 := by decide

theorem witness_WirePayloadIsThirtyTwoBytes : (0x00 : Byte) ∈ (wire32 [7]).drop (min [(7 : Byte)].length 32) := by decide

theorem witness_PowerWriteKeepsOtherBits : (0 : Int) ≤ 0 ∧ (0 : Int) ≤ 3 ∧ (3 : Int) ≤ 3 := by decide

theorem witness_ConstructionLeavesTheTablesValues : s0 = State.construct tvi := rfl

theorem witness_StepRunsTheDecodedInstruction :
    (presented s0 (.bus [[0xFF]])).seq = .idle ∧ (presented s0 (.bus [[0xFF]])).radio ≠ .poweredDown ∧
    (presented s0 (.bus [[0xFF]])).port.next? = some (.frame [0xFF], .bus []) ∧ decode (.frame [0xFF]) = .instr .nop := by decide

theorem witness_StepWithoutARequest :
    (s0.seq = .idle ∧ s0.radio ≠ .poweredDown ∧ (s0.port = .requests [] ∨ s0.port = .bus [])) ∧
    ({ s0 with seq := .running .nop 1 }).seq = .running .nop 1 ∧
    (({ s0 with radio := .poweredDown } : State).seq = .idle ∧
      ({ s0 with radio := .poweredDown } : State).radio = .poweredDown) := by decide

theorem witness_UnassignedRequestsAreRefused :
    (presented sInit (.requests [⟨5, 0, 0, []⟩])).port = .requests (⟨5, 0, 0, []⟩ :: []) ∧ sInit.seq = .idle ∧
    sInit.radio ≠ .poweredDown ∧ 5 ≤ (5 : BitVec 3).toNat ∧ 5 ≤ (7 : BitVec 3).toNat := by decide

theorem witness_ForeignFramesAreRefused :
    s0.seq = .idle ∧ s0.radio ≠ .poweredDown ∧ (presented s0 (.bus [[]])).port = .bus ([] :: []) ∧
    ((presented s0 (.bus [[0x40]])).port = .bus ((0x40 :: []) :: []) ∧ commandOf 0x40 = none) ∧
    ((presented s0 (.bus [(0x61 :: List.replicate 31 0)])).port = .bus ((0x61 :: List.replicate 31 0) :: []) ∧
      (List.replicate 31 (0 : Byte)).length ≠ 32) ∧
    ((presented s0 (.bus [[0xE1, 0]])).port = .bus ((0xE1 :: [0]) :: []) ∧ ([0] : Bytes) ≠ []) := by decide

theorem witness_TableWordsRunAsDecoded : State.reset.radio ≠ .poweredDown ∧ decodeTableWord 8 0x61 = some .rRxPayload :=
  ⟨by simp [State.reset, State.construct], by decide⟩

theorem witness_RequestsAreServedInOrder :
    (∃ t, (presented s0 (.requests [⟨0b100, 0, 0, []⟩])).port.next? = some (.request ⟨0b100, 0, 0, []⟩, .requests []) ∧
      (presented s0 (.requests [⟨0b100, 0, 0, []⟩])).port = .requests [⟨0b100, 0, 0, []⟩] ∧
      step (presented s0 (.requests [⟨0b100, 0, 0, []⟩])) = .next t) ∧
    (∃ t, (presented s0 (.bus [[0xFF]])).port.next? = some (.frame [0xFF], .bus []) ∧
      step (presented s0 (.bus [[0xFF]])) = .next t) ∧
    (s0.port = .requests [] ∧ step s0 = .next s0) := ⟨⟨_, rfl, rfl, rfl⟩, ⟨_, rfl, rfl⟩, rfl, rfl⟩

theorem witness_EachEventAdvancesTheSequencer : ({ s0 with seq := .running .nop 0 }).seq = .running .nop 0 := rfl

theorem witness_RegisterReadRuns : (0x00 : Byte) ≤ 0x1F ∧ (0x1F : Byte) ≤ 0x1F := by decide

theorem witness_RegisterMultiReadRuns :
    (0x1F : Byte) ≤ 0x1F ∧ 1 ≤ 1 ∧ 1 ≤ 32 ∧ 32 ≤ 32 ∧
    ([0x1F, 0xFF] : Bytes) = 0x1F :: List.replicate 1 s0.params.dummyByte := by decide

theorem witness_RegisterWriteRuns : (0x00 : Byte) ≤ 0x1F ∧ (0x1F : Byte) ≤ 0x1F := by decide

theorem witness_RegisterMultiWriteRuns :
    (0x1F : Byte) ≤ 0x1F ∧ 1 ≤ ([7] : Bytes).length ∧ (List.replicate 32 (7 : Byte)).length ≤ 32 := by decide

theorem witness_PayloadReadRuns :
    (0x61 :: List.replicate 32 0xFF : Bytes) = 0x61 :: List.replicate 32 s0.params.dummyByte := by decide

theorem witness_PayloadWriteRuns : (List.replicate 32 (7 : Byte)).length = 32 := by decide

theorem witness_FlushCommandsRun :
    (Instr.flushTx = .flushTx ∧ (0xE1 : Byte) = 0xE1) ∧ (Instr.flushRx = .flushRx ∧ (0xE2 : Byte) = 0xE2) := by decide

theorem witness_LengthFailuresTouchNothing :
    (Instr.wRegister 0x20 0).wellFormed = false ∧ (Instr.wTxPayload []).wellFormed = false ∧
    (Instr.rRegisterMulti 0x1F (-1)).wellFormed = false ∧ s0.seq = .idle ∧ s0.radio ≠ .poweredDown ∧
    ((presented s0 (.bus [[0x3F]])).port = .bus ((0x3F :: []) :: []) ∧ (0x3F : Byte).toNat < 0x40 ∧ ([] : Bytes).length = 0) ∧
    ((presented s0 (.bus [(0x00 :: List.replicate 33 0)])).port = .bus ((0x00 :: List.replicate 33 0) :: []) ∧
      (0x00 : Byte).toNat < 0x40 ∧ 32 < (List.replicate 33 (0 : Byte)).length) ∧
    ((presented s0 (.bus [(0xA0 :: List.replicate 31 0)])).port = .bus ((0xA0 :: List.replicate 31 0) :: []) ∧
      (List.replicate 31 (0 : Byte)).length ≠ 32) := by decide

theorem witness_NoTransportFailureWhenNoneIsPossible :
    (∃ s es r t, s.params.transportCanFail = false ∧ Runs .flushRx s es r t) ∧
    (∃ s es t, s.params.transportCanFail = false ∧ Runs (.rRegister 0x20) s es (.accessFailed .length) t) :=
  ⟨⟨_, _, _, _, rfl, runs_sure⟩, ⟨_, _, _, rfl, runs_read_bad⟩⟩

theorem witness_InitRunsItsTwelveFrames :
    (answered s0 (served (initFrames s0))).answers = served (initFrames s0) ++ [] ∧
    List.Forall₂ (fun out a => Answer.serves a out) (initFrames (answered s0 (served (initFrames s0)))) (served (initFrames s0)) :=
  ⟨by simp [answered], served_serves _⟩

/-- The first and the twelfth frame. -/
theorem witness_InitStopsAtItsFirstFailingFrame :
    (initFrames s0 = [] ++ [0x20, 0x08] :: (initFrames s0).tail ∧ (answered s0 [.fail]).answers = [] ++ .fail :: [] ∧
      List.Forall₂ (fun o a => Answer.serves a o) [] [] ∧ Answer.fail.breaks s0.params [0x20, 0x08]) ∧
    (initFrames s0 = (initFrames s0).take 11 ++ [0xE2] :: [] ∧
      (answered s0 (served ((initFrames s0).take 11) ++ [.fail])).answers = served ((initFrames s0).take 11) ++ .fail :: [] ∧
      List.Forall₂ (fun o a => Answer.serves a o) ((initFrames s0).take 11) (served ((initFrames s0).take 11)) ∧
      Answer.fail.breaks s0.params [0xE2]) :=
  ⟨⟨rfl, rfl, .nil, fail_breaks _⟩, ⟨rfl, rfl, served_serves _, fail_breaks _⟩⟩

theorem witness_ConfigureRejectsOverlargeOperands : (125 : Int) < 126 ∨ (3 : Int) < 0 := by decide

theorem witness_ConfigureRejectsNegativeOperands : (0 : Int) < 0 ∨ (-1 : Int) < 0 := by decide

theorem witness_ConfigureCachesBeforeInit :
    (0 : Int) ≤ 125 ∧ (125 : Int) ≤ 125 ∧ (0 : Int) ≤ 3 ∧ (3 : Int) ≤ 3 ∧ s0.radio = .uninitialized := by decide

theorem witness_ConfigureAppliesAfterInit :
    (0 : Int) ≤ 125 ∧ (125 : Int) ≤ 125 ∧ (0 : Int) ≤ 3 ∧ (3 : Int) ≤ 3 ∧ sInit.radio ≠ .uninitialized ∧
    (answered sInit [zeros 2, .ok [0, 0xFF], zeros 2]).answers = zeros 2 :: .ok [0, 0xFF] :: zeros 2 :: [] ∧
    (zeros 2).serves [0x25, BitVec.ofInt 8 125] ∧
    (zeros 2).serves [0x26, ((0xFF : Byte) &&& (0xF9 : Byte)) ||| (BitVec.ofInt 8 3 <<< (1 : Nat))] :=
  ⟨by decide, by decide, by decide, by decide, by decide, rfl, serves_zeros rfl, serves_zeros rfl⟩

theorem witness_ConfigureFailureKeepsChannelAndPower :
    (0 : Int) ≤ 0 ∧ (0 : Int) ≤ 125 ∧ (0 : Int) ≤ 3 ∧ sInit.radio ≠ .uninitialized ∧
    ((answered sInit [.fail]).answers = .fail :: [] ∧ Answer.fail.breaks sInit.params [0x25, BitVec.ofInt 8 0]) ∧
    ((answered sInit [zeros 2, .fail]).answers = zeros 2 :: .fail :: [] ∧ (zeros 2).serves [0x25, BitVec.ofInt 8 0] ∧
      Answer.fail.breaks sInit.params [0x06, sInit.params.dummyByte]) ∧
    ((answered sInit [zeros 2, .ok [0, 0], .fail]).answers = zeros 2 :: .ok [0, 0] :: .fail :: [] ∧
      Answer.fail.breaks sInit.params [0x26, ((0 : Byte) &&& (0xF9 : Byte)) ||| (BitVec.ofInt 8 0 <<< (1 : Nat))]) :=
  ⟨by decide, by decide, by decide, by decide, ⟨rfl, fail_breaks _⟩, ⟨rfl, serves_zeros rfl, fail_breaks _⟩,
    ⟨rfl, fail_breaks _⟩⟩

/-- At the first poll and at the last one that can be flagged, the 1000th. -/
theorem witness_SendEndsAtItsFirstFlaggedPoll :
    sInit.radio ≠ .uninitialized ∧ (0x10 : Byte) &&& 0x30 ≠ 0 ∧
    (Unflagged [] ∧ ([] : Bytes).length < 1000 ∧
      (answered sInit (launched [.ok [0x10], zeros 2])).answers =
        zeros 2 :: zeros 1 :: zeros 33 :: (pollAnswers [] ++ .ok [0x10] :: zeros 2 :: [])) ∧
    (Unflagged (List.replicate 999 0x4E) ∧ (List.replicate 999 (0x4E : Byte)).length < 1000 ∧
      (answered sInit (launched (pollAnswers (List.replicate 999 0x4E) ++ [.ok [0x10], zeros 2]))).answers =
        zeros 2 :: zeros 1 :: zeros 33 :: (pollAnswers (List.replicate 999 0x4E) ++ .ok [0x10] :: zeros 2 :: [])) ∧
    (zeros 2).serves [0x20, 0x0A] ∧ (zeros 1).serves [0xE1] ∧ (zeros 33).serves (0xA0 :: wire32 []) ∧
    (zeros 2).serves [0x27, (0x10 : Byte) &&& 0x30] :=
  ⟨by decide, by decide, ⟨by simp [Unflagged], by decide, rfl⟩,
    ⟨unflagged_replicate _, by rw [List.length_replicate]; decide, rfl⟩, serves_zeros rfl, serves_zeros rfl, serves_zeros rfl,
    serves_zeros rfl⟩

theorem witness_SendStopsWhenEnteringFails :
    sInit.radio ≠ .uninitialized ∧ (answered sInit [.fail]).answers = .fail :: [] ∧
    Answer.fail.breaks sInit.params [0x20, 0x0A] := ⟨by decide, rfl, fail_breaks _⟩

theorem witness_SendStopsBeforeThePulse :
    sInit.radio ≠ .uninitialized ∧ (zeros 2).serves [0x20, 0x0A] ∧
    ((answered sInit [zeros 2, .fail]).answers = zeros 2 :: .fail :: [] ∧ Answer.fail.breaks sInit.params [0xE1]) ∧
    ((answered sInit [zeros 2, zeros 1, .fail]).answers = zeros 2 :: zeros 1 :: .fail :: [] ∧ (zeros 1).serves [0xE1] ∧
      Answer.fail.breaks sInit.params (0xA0 :: wire32 [1])) :=
  ⟨by decide, serves_zeros rfl, ⟨rfl, fail_breaks _⟩, ⟨rfl, serves_zeros rfl, fail_breaks _⟩⟩

theorem witness_SendStopsAtAFailingPollOrClear :
    sInit.radio ≠ .uninitialized ∧ Unflagged [0x4E] ∧ [(0x4E : Byte)].length < 1000 ∧
    (zeros 2).serves [0x20, 0x0A] ∧ (zeros 1).serves [0xE1] ∧ (zeros 33).serves (0xA0 :: wire32 [1]) ∧
    ((answered sInit (launched [.ok [0x4E], .fail])).answers =
        zeros 2 :: zeros 1 :: zeros 33 :: (pollAnswers [0x4E] ++ .fail :: []) ∧ Answer.fail.breaks sInit.params [0xFF]) ∧
    ((answered sInit (launched [.ok [0x4E], .ok [0x20], .fail])).answers =
        zeros 2 :: zeros 1 :: zeros 33 :: (pollAnswers [0x4E] ++ .ok [0x20] :: .fail :: []) ∧ (0x20 : Byte) &&& 0x30 ≠ 0 ∧
      Answer.fail.breaks sInit.params [0x27, (0x20 : Byte) &&& 0x30]) :=
  ⟨by decide, unflagged_replicate 1, by decide, serves_zeros rfl, serves_zeros rfl, serves_zeros rfl, ⟨rfl, fail_breaks _⟩,
    ⟨rfl, by decide, fail_breaks _⟩⟩

theorem witness_StartReceiveRuns :
    s0.radio = .uninitialized ∧
    (sInit.radio ≠ .uninitialized ∧ (answered sInit [zeros 2]).answers = zeros 2 :: [] ∧ (zeros 2).serves [0x20, 0x0B]) ∧
    ((answered sInit [.fail]).answers = .fail :: [] ∧ Answer.fail.breaks sInit.params [0x20, 0x0B]) :=
  ⟨by decide, ⟨by decide, rfl, serves_zeros rfl⟩, ⟨rfl, fail_breaks _⟩⟩

theorem witness_ReceiveFindsNothing :
    sInit.radio ≠ .uninitialized ∧ (answered sInit [.ok [0xBF]]).answers = .ok [0xBF] :: [] ∧ (0xBF : Byte) &&& 0x40 = 0 := by
  decide

theorem witness_ReceiveDeliversThePayload :
    sInit.radio ≠ .uninitialized ∧ (0x40 : Byte) &&& 0x40 ≠ 0 ∧ (List.replicate 32 (1 : Byte)).length = 32 ∧
    (zeros 2).serves [0x27, 0x40] ∧
    (answered sInit [.ok [0x40], zeros 2, .ok (0 :: List.replicate 32 1)]).answers =
      .ok [0x40] :: zeros 2 :: .ok (0 :: List.replicate 32 1) :: [] :=
  ⟨by decide, by decide, by decide, serves_zeros rfl, rfl⟩

theorem witness_ReceiveStopsAtAFailingFrame :
    sInit.radio ≠ .uninitialized ∧
    ((answered sInit [.fail]).answers = .fail :: [] ∧ Answer.fail.breaks sInit.params [0xFF]) ∧
    ((answered sInit [.ok [0x40], .fail]).answers = .ok [0x40] :: .fail :: [] ∧ (0x40 : Byte) &&& 0x40 ≠ 0 ∧
      Answer.fail.breaks sInit.params [0x27, 0x40]) ∧
    ((answered sInit [.ok [0x40], zeros 2, .fail]).answers = .ok [0x40] :: zeros 2 :: .fail :: [] ∧
      (zeros 2).serves [0x27, 0x40] ∧
      Answer.fail.breaks sInit.params (0x61 :: List.replicate 32 sInit.params.dummyByte)) :=
  ⟨by decide, ⟨rfl, fail_breaks _⟩, ⟨rfl, by decide, fail_breaks _⟩, ⟨rfl, serves_zeros rfl, fail_breaks _⟩⟩

theorem witness_RequestsBeforeInitAreNotReady : s0.radio = .uninitialized ∧ (∃ p, Instr.send [1] = .send p) :=
  ⟨by decide, [1], rfl⟩

theorem settled_presented (p : Program) : (presented s0 p).Settled :=
  ⟨rfl, by simp [presented, s0, State.construct], show s0.validFields by unfold State.validFields; decide, ⟨rfl, rfl⟩,
    by simp [State.busReleased, presented, s0, State.construct], by simp [State.ceFollowsMode, presented, s0, State.construct]⟩

/-- A block that meets the invariant, with a request presented, takes a step; so does a settled one with a frame line. -/
theorem witness_EveryStepKeepsTheInvariant :
    ((presented s0 (.requests [⟨0b100, 0, 0, []⟩])).Inv ∧
      ∃ t, step (presented s0 (.requests [⟨0b100, 0, 0, []⟩])) = .next t) ∧
    ((presented s0 (.bus [[0xFF]])).Settled ∧ ∃ t, step (presented s0 (.bus [[0xFF]])) = .next t) :=
  ⟨⟨⟨settled_presented _, _, rfl⟩, _, rfl⟩, settled_presented _, _, rfl⟩

theorem witness_ChannelAndPowerStayValid :
    ((presented s0 (.requests [⟨0b001, 125, 3, []⟩])).validFields ∧
      ∃ t, step (presented s0 (.requests [⟨0b001, 125, 3, []⟩])) = .next t) ∧
    (exec (.configure 125 3) s0 = .next (ran (.configure 125 3) s0) ∧ (ran (.configure 125 3) s0).channel ≠ s0.channel) :=
  ⟨⟨by unfold State.validFields; decide, _, rfl⟩, exec_ran _ _, by decide⟩

/-- Each row of the table of R22. -/
theorem witness_RadioStateFollowsTheTable :
    (∃ s es t, Runs .init s es (.response .ok) t) ∧ (∃ s es t, Runs .init s es (.response (.failure .transport)) t) ∧
    (∃ s es t, Runs (.send []) s es (.response (.failure .transport)) t ∧ es.length ≤ 4) ∧
    (∃ s es t, Runs (.send []) s es (.response (.failure .transport)) t ∧ 4 < es.length) ∧
    (∃ s es t, Runs .startReceive s es (.response .ok) t) ∧
    (∃ s es t, Runs .startReceive s es (.response (.failure .transport)) t) ∧ (∃ s es r t, Runs .receive s es r t) :=
  ⟨⟨_, _, _, runs_init⟩, ⟨_, _, _, runs_init_bad⟩, ⟨_, _, _, runs_send_enter_bad, by decide⟩,
    ⟨_, _, _, runs_send_launch_bad, by decide⟩, ⟨_, _, _, runs_startReceive⟩, ⟨_, _, _, runs_startReceive_bad⟩,
    ⟨_, _, _, _, runs_receive⟩⟩

theorem witness_ChipEnableAtTheEndOfARequest :
    (∃ s es r t, Runs .init s es r t) ∧ (∃ s es t, Runs (.send [1]) s es (.response .ok) t) ∧
    (∃ s es t, Runs .startReceive s es (.response .ok) t) ∧
    (∃ s es t, Runs .startReceive s es (.response (.failure .transport)) t) ∧ (∃ s es t, Runs .receive s es (.response .notReady) t) :=
  ⟨⟨_, _, _, _, runs_init_bad⟩, ⟨_, _, _, runs_send⟩, ⟨_, _, _, runs_startReceive⟩, ⟨_, _, _, runs_startReceive_bad⟩,
    ⟨_, _, _, runs_not_ready⟩⟩

/-- A CONFIGURE that answers Ok and one that does not. -/
theorem witness_InstructionsTouchOnlyTheirFields :
    (∃ s es t, Runs (.configure 125 3) s es (.response .ok) t) ∧
    (∃ s es t, Runs (.configure 126 0) s es (.response .validationError) t) ∧ (∃ s es r t, Runs .nop s es r t) :=
  ⟨⟨_, _, _, runs_configure⟩, ⟨_, _, _, runs_configure_invalid⟩, ⟨_, _, _, _, runs_nop⟩⟩

theorem witness_ResponsesHaveTheirShape :
    Instr.receive.isRequest = true ∧
    (∃ s es t, Runs .receive s es (.response { code := .ok, reason := none, found := true, data := List.replicate 32 0 }) t) ∧
    (∃ s es t, Runs (.send [1]) s es (.response (.failure .maxRetries)) t) ∧
    (∃ s es t, Runs (.configure 126 0) s es (.response .validationError) t) :=
  ⟨rfl, ⟨_, _, _, runs_receive⟩, ⟨_, _, _, runs_send_maxRetries⟩, ⟨_, _, _, runs_configure_invalid⟩⟩

/-- A SEND within R239's bound, and one that times out. -/
theorem witness_EveryInstructionEndsWithinItsBound :
    (∃ s es r t, Runs (.send [1]) s es r t) ∧ (∃ s es t, Runs (.send [1]) s es (.response (.failure .timeout)) t) :=
  ⟨⟨_, _, _, _, runs_send⟩, runs_send_timeout⟩

theorem witness_RequestsEmitTracesOfTheBlock :
    (Instr.send [1]).isRequest = true ∧ (∃ s es r t, Runs (.send [1]) s es r t) ∧
    (∃ s es r t, Runs .startReceive s es r t ∧ ∃ pre post, es = pre ++ Event.wait 2 :: post ∧ 1 < 2) ∧
    (∃ s es r t, Runs .init s es r t ∧ ∃ pre post, es = pre ++ Event.wait 100 :: post ∧ 99 < 100) :=
  ⟨rfl, ⟨_, _, _, _, runs_send⟩,
    ⟨_, _, _, _, runs_startReceive, [.line .ce .low] ++ frameEvents [0x20, 0x0B] (zeros 2), _, rfl, by decide⟩,
    ⟨_, _, _, _, runs_init, [.line .ce .low, .line .csn .high], _, rfl, by decide⟩⟩

theorem witness_FramesNeverNestOrOverlap :
    ∃ s es r t, Runs .nop s es r t ∧ s.busReleased ∧
      ∃ pre out a post, es = pre ++ Event.xfer out a :: post :=
  ⟨_, _, _, _, runs_nop, by unfold State.busReleased; decide, [.line .csn .low], [0xFF], .ok [0x0E], [.line .csn .high], rfl⟩

theorem witness_SettleWaitFollowsPowerUp :
    Instr.startReceive.isRequest = true ∧ ∃ s es r t, Runs .startReceive s es r t ∧
      ∃ pre v a e post, es = pre ++ Event.xfer [0x20, v] a :: .line .csn .high :: e :: post ∧ v &&& 0x02 ≠ 0 :=
  ⟨rfl, _, _, _, _, runs_startReceive, [.line .ce .low, .line .csn .low], 0x0B, zeros 2, .wait 2, [.line .ce .high], rfl,
    by decide⟩

theorem witness_TransmitPulseIsTimed :
    ∃ s es r t, Runs (.send [1]) s es r t ∧ (∃ pre post, es = pre ++ Event.line .ce .high :: post) ∧
      ∃ pre e post, es = pre ++ e :: post ∧ e.isPoll = true :=
  ⟨_, _, _, _, runs_send, List.append_of_mem (by decide),
    by
      obtain ⟨pre, post, h⟩ := List.append_of_mem (a := Event.xfer [0xFF] (.ok [0x20]))
        (l := (ran (.send [1]) (answered sInit (launched [.ok [0x20], zeros 2]))).trace) (by decide)
      exact ⟨pre, _, post, h, rfl⟩⟩

theorem witness_TheFirstFailingFrameEndsTheRequest :
    ∃ s es t, Runs .nop s es (.accessFailed .transport) t ∧
      ∃ pre e post, es = pre ++ e :: post ∧ e.failed = true :=
  ⟨_, _, _, runs_nop_bad, [.line .csn .low], .xfer [0xFF] .fail, [.line .csn .high], rfl, rfl⟩

theorem witness_NothingIsEmittedBeforeInit :
    s0.radio = .uninitialized ∧ Instr.receive.isRequest = true ∧ Instr.receive ≠ .init ∧
    (∀ c p, Instr.receive ≠ .configure c p) ∧ (∃ t, exec .receive s0 = .next t) ∧ (∃ t, exec (.configure 0 0) s0 = .next t) :=
  ⟨rfl, rfl, by decide, by simp, ⟨_, rfl⟩, ⟨_, rfl⟩⟩

/-- One run for each row of the table of R313. -/
theorem witness_WaitsSumToTheTable :
    (∃ s es r t, Runs .init s es r t) ∧ (∃ s es r t, Runs (.configure 125 3) s es r t) ∧ (∃ s es r t, Runs .receive s es r t) ∧
    (∃ s es t, Runs .startReceive s es (.response .ok) t) ∧ (∃ s es t, Runs (.send [1]) s es (.response .ok) t) ∧
    (∃ s es t, Runs (.send [1]) s es (.response (.failure .maxRetries)) t) ∧
    (∃ s es t, Runs (.send [1]) s es (.response (.failure .timeout)) t) ∧
    (∃ s es t, Runs (.send []) s es (.response (.failure .transport)) t ∧ es.length ≤ 4) ∧
    (∃ s es t, Runs (.send []) s es (.response (.failure .transport)) t ∧ 4 < es.length) :=
  ⟨⟨_, _, _, _, runs_init⟩, ⟨_, _, _, _, runs_configure⟩, ⟨_, _, _, _, runs_receive_nothing⟩, ⟨_, _, _, runs_startReceive⟩,
    ⟨_, _, _, runs_send⟩, ⟨_, _, _, runs_send_maxRetries⟩, runs_send_timeout, ⟨_, _, _, runs_send_enter_bad, by decide⟩,
    ⟨_, _, _, runs_send_launch_bad, by decide⟩⟩

end Sys2Proof.Tests
end

section
/-! PROOFS. Whole CSN brackets (spec/70_reset_and_hazards.md R307): every behaviour's trace is bracketed, and a bracketed
trace has each exchange between its own CSN Low and CSN High. -/

namespace Sys2Proof.Machine

/-! ## What the bracket automaton allows around an exchange -/

theorem BusPhase.next_eq_selected {b : BusPhase} {e : Event} (h : b.next e = .selected) :
    b = .released ∧ e = .line .csn .low := by
  unfold BusPhase.next at h
  split at h <;> cases h
  exact ⟨rfl, rfl⟩

theorem BusPhase.next_xfer {b : BusPhase} (h : b ≠ .selected) (out : Bytes) (a : Answer) :
    b.next (.xfer out a) = .broken := by
  cases b with
  | selected => exact absurd rfl h
  | released | exchanged | broken => rfl

theorem BusPhase.exchanged_next_of_ne {e : Event} (h : e ≠ .line .csn .high) : BusPhase.exchanged.next e = .broken := by
  cases e with
  | xfer | wait => rfl
  | line l v =>
    cases l with
    | ce => rfl
    | csn =>
      cases v with
      | low => rfl
      | high => exact absurd rfl h

/-- A trace leaves CSN selected only by ending, outside a bracket, with CSN Low. -/
theorem eq_append_low_of_selected {es : List Event} (h : es.foldl BusPhase.next .released = .selected) :
    ∃ es', es = es' ++ [.line .csn .low] ∧ bracketed es' = true := by
  obtain rfl | ⟨es', e, rfl⟩ := List.eq_nil_or_concat' es
  · cases h
  · rw [List.foldl_concat] at h
    obtain ⟨hb, rfl⟩ := BusPhase.next_eq_selected h
    exact ⟨es', rfl, by simp [bracketed, hb]⟩

/-- An exchange is followed by CSN High and whole brackets. -/
theorem eq_high_cons_of_exchanged {es : List Event} (h : es.foldl BusPhase.next .exchanged = .released) :
    ∃ es', es = .line .csn .high :: es' ∧ bracketed es' = true := by
  cases es with
  | nil => cases h
  | cons e es =>
    by_cases he : e = .line .csn .high
    · subst he
      exact ⟨es, rfl, by simpa [bracketed, BusPhase.next] using h⟩
    · rw [List.foldl_cons, BusPhase.exchanged_next_of_ne he, broken_stays] at h
      cases h

/-- Every exchange of a bracketed trace has its own CSN Low before it and CSN High after it, and the rest is bracketed. -/
theorem bracketed_around_xfer {pre post : List Event} {out : Bytes} {a : Answer}
    (h : bracketed (pre ++ .xfer out a :: post) = true) :
    ∃ pre' post', pre = pre' ++ [.line .csn .low] ∧ post = .line .csn .high :: post' ∧
      bracketed pre' = true ∧ bracketed post' = true := by
  simp only [bracketed, beq_iff_eq, List.foldl_append, List.foldl_cons] at h
  have hsel : pre.foldl BusPhase.next .released = .selected := by
    by_contra hne
    rw [BusPhase.next_xfer hne, broken_stays] at h
    cases h
  rw [hsel] at h
  obtain ⟨pre', hpre, hpre'⟩ := eq_append_low_of_selected hsel
  obtain ⟨post', hpost, hpost'⟩ := eq_high_cons_of_exchanged h
  exact ⟨pre', post', hpre, hpost, hpre', hpost'⟩

/-! ## Every behaviour's trace is bracketed -/

@[simp] theorem bracketed_nil : bracketed [] = true := rfl

@[simp] theorem bracketed_frameEvents_append (out : Bytes) (a : Answer) (es : List Event) :
    bracketed (frameEvents out a ++ es) = bracketed es := rfl

@[simp] theorem bracketed_pollEvents_append (us : List Byte) (es : List Event) :
    bracketed (pollEvents us ++ es) = bracketed es := bracketed_append (bracketed_pollEvents us)

@[simp] theorem bracketed_ce_cons (v : Level) (es : List Event) : bracketed (.line .ce v :: es) = bracketed es := rfl

@[simp] theorem bracketed_wait_cons (ms : Nat) (es : List Event) : bracketed (.wait ms :: es) = bracketed es := rfl

theorem ApplyRun.bracketed {pr : Params} {c p : Int} {es : List Event} {r : Except Reason Unit}
    (h : ApplyRun pr c p es r) : bracketed es = true := by
  cases h <;> simp

theorem ReceiveRun.bracketed {p : Params} {es : List Event} {r : Except Reason (Option Bytes)} (h : ReceiveRun p es r) :
    bracketed es = true := by
  cases h <;> simp

theorem LaunchRun.bracketed {p : Params} {q : Bytes} {es : List Event} {sent : Bool} (h : LaunchRun p q es sent) :
    bracketed es = true := by
  cases h <;> simp

theorem PollRun.bracketed {p : Params} {n : Nat} {es : List Event} {r : Except Reason Unit} (h : PollRun p n es r) :
    bracketed es = true := by
  cases h <;> simp [bracketed_pollEvents]

/-- Whatever an instruction does, it emits whole brackets. -/
theorem Behaviour.bracketed {s : State} {i : Instr} {es : List Event} {r : Result} {rd : RadioState} {ce csn : LineLevel}
    (h : Behaviour s i es r rd ce csn) : bracketed es = true := by
  cases h with
  | badLength | configureInvalid | configureCached | notReady => rfl
  | accessOk | accessBad => simp
  | initOk as hS => rw [bracketed_append rfl, bracketed_framesEvents hS]
  | initBad before after out oks bad ho hS hb =>
    rw [bracketed_append rfl, bracketed_append (bracketed_framesEvents hS), bracketed_frameEvents]
  | configureApplied c p es r hv hr hA => exact hA.bracketed
  | sendEnterBad | startReceiveOk | startReceiveBad => simp
  | sendLaunchBad p d es hr hd hL => simp [hL.bracketed]
  | sendPolled p d es fs r hr hd hL hP => simp [bracketed_append hL.bracketed, hP.bracketed]
  | receiveOk es d hr hR => exact hR.bracketed
  | receiveBad es q hr hR => exact hR.bracketed

/-- An instruction leaves CSN High, or as it was. -/
theorem Behaviour.csn_high_or_kept {s : State} {i : Instr} {es : List Event} {r : Result} {rd : RadioState}
    {ce csn : LineLevel} (h : Behaviour s i es r rd ce csn) : csn = .high ∨ csn = s.csn := by
  cases h with
  | badLength | configureInvalid | configureCached | notReady => exact .inr rfl
  | _ => exact .inl rfl

theorem Behaviour.busReleased {s : State} {i : Instr} {es : List Event} {r : Result} {rd : RadioState}
    {ce csn : LineLevel} (h : Behaviour s i es r rd ce csn) (hs : s.busReleased) :
    (stateAfter s i es r rd ce csn).busReleased := by
  show csn ≠ .low
  obtain rfl | rfl := h.csn_high_or_kept
  · decide
  · exact hs

/-- Settles O54: every behaviour's trace is bracketed, and the bracket automaton pins what stands around an exchange. -/
theorem framesNeverNestOrOverlap : Obligations.FramesNeverNestOrOverlap := by
  intro s t i es r he hd
  obtain ⟨rd, ce, csn, hB, rfl⟩ := behaviour_of_exec he hd
  refine ⟨hB.bracketed, hB.busReleased, ?_⟩
  rintro pre out a post rfl
  exact bracketed_around_xfer hB.bracketed

end Sys2Proof.Machine
end

section
/-! PROOFS. The settle wait (spec/70_reset_and_hazards.md R304): a request has at most one frame that sets PWR_UP, the mode
entry's CONFIG write, and it is the request's last event but for the CSN release, or the wait of 2 ms follows. -/

namespace Sys2Proof.Machine

/-- The frame is no CONFIG write that sets PWR_UP. -/
def LeavesPowerUp (out : Bytes) : Prop := ∀ v, out = [0x20, v] → v &&& 0x02 = 0

/-- No frame of the trace sets PWR_UP. -/
def NeverPowersUp (es : List Event) : Prop := ∀ out a, .xfer out a ∈ es → LeavesPowerUp out

theorem leavesPowerUp_of_command {c : Byte} {data : Bytes} (h : c ≠ 0x20) : LeavesPowerUp (c :: data) := by
  intro v hv
  exact absurd (List.cons.inj hv).1 h

@[simp] theorem neverPowersUp_nil : NeverPowersUp [] := by simp [NeverPowersUp]

@[simp] theorem neverPowersUp_line_cons (l : Line) (v : Level) (es : List Event) :
    NeverPowersUp (.line l v :: es) ↔ NeverPowersUp es := by simp [NeverPowersUp]

@[simp] theorem neverPowersUp_wait_cons (ms : Nat) (es : List Event) :
    NeverPowersUp (.wait ms :: es) ↔ NeverPowersUp es := by simp [NeverPowersUp]

@[simp] theorem neverPowersUp_append (es fs : List Event) :
    NeverPowersUp (es ++ fs) ↔ NeverPowersUp es ∧ NeverPowersUp fs := by
  simp [NeverPowersUp, or_imp, forall_and]

@[simp] theorem neverPowersUp_frameEvents (out : Bytes) (a : Answer) :
    NeverPowersUp (frameEvents out a) ↔ LeavesPowerUp out := by
  simp [NeverPowersUp, frameEvents]

theorem neverPowersUp_framesEvents {outs : List Bytes} {as : List Answer} (hS : AllServe outs as)
    (h : ∀ out ∈ outs, LeavesPowerUp out) : NeverPowersUp (framesEvents outs as) := by
  induction hS with
  | nil => simp
  | cons _ _ ih =>
    rw [List.forall_mem_cons] at h
    simp [h.1, ih h.2]

@[simp] theorem neverPowersUp_pollEvents (us : List Byte) : NeverPowersUp (pollEvents us) := by
  induction us with
  | nil => simp
  | cons v us ih => simp [pollEvents_cons, leavesPowerUp_of_command, ih]

/-- INIT's frames leave the chip powered down (R161). -/
theorem initFrames_leavePowerUp (s : State) : ∀ out ∈ initFrames s, LeavesPowerUp out := by
  have hconfig : LeavesPowerUp [0x20, 0x08] := by
    rintro v ⟨⟩
    decide
  rw [initFrames, List.forall_mem_cons]
  exact ⟨hconfig, by simp [leavesPowerUp_of_command]⟩

theorem ApplyRun.neverPowersUp {pr : Params} {c p : Int} {es : List Event} {r : Except Reason Unit}
    (h : ApplyRun pr c p es r) : NeverPowersUp es := by
  cases h <;> simp [leavesPowerUp_of_command]

theorem ReceiveRun.neverPowersUp {p : Params} {es : List Event} {r : Except Reason (Option Bytes)}
    (h : ReceiveRun p es r) : NeverPowersUp es := by
  cases h <;> simp [leavesPowerUp_of_command]

theorem LaunchRun.neverPowersUp {p : Params} {q : Bytes} {es : List Event} {sent : Bool} (h : LaunchRun p q es sent) :
    NeverPowersUp es := by
  cases h <;> simp [leavesPowerUp_of_command]

theorem PollRun.neverPowersUp {p : Params} {n : Nat} {es : List Event} {r : Except Reason Unit} (h : PollRun p n es r) :
    NeverPowersUp es := by
  cases h <;> simp [leavesPowerUp_of_command]

/-- The trace opens with CE Low and a CONFIG frame, as a mode entry does, and ends there or waits for 2 ms; no later frame
sets PWR_UP. -/
def PowersUpOnce (es : List Event) : Prop :=
  ∃ v a rest, es = [.line .ce .low, .line .csn .low] ++ .xfer [0x20, v] a :: .line .csn .high :: rest ∧
    NeverPowersUp rest ∧ (rest = [] ∨ ∃ rest', rest = .wait 2 :: rest')

/-- A request sets PWR_UP never, or once and then settles. -/
theorem Behaviour.powerUp_cases {s : State} {i : Instr} {es : List Event} {r : Result} {rd : RadioState}
    {ce csn : LineLevel} (h : Behaviour s i es r rd ce csn) (hi : i.isRequest = true) :
    NeverPowersUp es ∨ PowersUpOnce es := by
  cases h with
  | badLength _ hn | accessOk _ hn | accessBad _ hn => simp [hn] at hi
  | configureInvalid | configureCached | notReady => exact .inl neverPowersUp_nil
  | initOk as hS =>
    exact .inl (by simpa [initSetupEvents] using neverPowersUp_framesEvents hS (initFrames_leavePowerUp s))
  | initBad before after out oks bad ho hS hb =>
    have hall : ∀ o ∈ before ++ out :: after, LeavesPowerUp o := ho ▸ initFrames_leavePowerUp s
    have hbefore := neverPowersUp_framesEvents hS fun o hm => hall o (by simp [hm])
    exact .inl (by simpa [initSetupEvents] using And.intro hbefore (hall out (by simp)))
  | configureApplied c p es r hv hr hA => exact .inl hA.neverPowersUp
  | receiveOk es d hr hR => exact .inl hR.neverPowersUp
  | receiveBad es q hr hR => exact .inl hR.neverPowersUp
  | sendEnterBad p bad hr hb => exact .inr ⟨0x0A, bad, [], rfl, by simp, .inl rfl⟩
  | startReceiveBad bad hr hb => exact .inr ⟨0x0B, bad, [], rfl, by simp, .inl rfl⟩
  | startReceiveOk d hr hd => exact .inr ⟨0x0B, .ok d, _, rfl, by simp, .inr ⟨_, rfl⟩⟩
  | sendLaunchBad p d es hr hd hL =>
    exact .inr ⟨0x0A, .ok d, .wait 2 :: es, rfl, by simp [hL.neverPowersUp], .inr ⟨_, rfl⟩⟩
  | sendPolled p d es fs r hr hd hL hP =>
    exact .inr ⟨0x0A, .ok d, .wait 2 :: (es ++ fs), rfl, by simp [hL.neverPowersUp, hP.neverPowersUp], .inr ⟨_, rfl⟩⟩

/-- The only frame of such a trace that sets PWR_UP is the first, and a wait of 2 ms is all that can follow it. -/
theorem PowersUpOnce.wait_of_split {pre post : List Event} {v : Byte} {a : Answer} {e : Event}
    (h : PowersUpOnce (pre ++ .xfer [0x20, v] a :: .line .csn .high :: e :: post)) (hv : v &&& 0x02 ≠ 0) :
    e = .wait 2 := by
  obtain ⟨_, _, rest, heq, hrest, hw⟩ := h
  have hpre : Event.xfer [0x20, v] a ∉ [.line .ce .low, .line .csn .low] := by simp
  have hpost : Event.xfer [0x20, v] a ∉ .line .csn .high :: rest := by
    intro hm
    exact hv (hrest [0x20, v] a (by simpa using hm) v rfl)
  obtain ⟨-, -, hafter⟩ := (List.append_cons_inj_of_notMem hpre hpost).1 heq.symm
  obtain rfl : rest = e :: post := (List.cons.inj hafter).2
  obtain hnil | ⟨rest', hcons⟩ := hw
  · cases hnil
  · exact (List.cons.inj hcons).1

/-- Settles O55: a request that sets PWR_UP does so in one frame, and its next event is the wait of 2 ms. -/
theorem settleWaitFollowsPowerUp : Obligations.SettleWaitFollowsPowerUp := by
  rintro s t i es r hi he hd pre v a e post rfl hv
  obtain ⟨rd, ce, csn, hB, -⟩ := behaviour_of_exec he hd
  obtain hnever | honce := hB.powerUp_cases hi
  · exact absurd (hnever [0x20, v] a (by simp) v rfl) hv
  · exact ⟨2, le_rfl, honce.wait_of_split hv⟩

end Sys2Proof.Machine
end

section
/-! PROOFS. The transmit pulse (spec/70_reset_and_hazards.md R305): SEND raises CE once, after the payload frame and before
any poll, and lowers it after 1 ms; a SEND that never raises CE never polls. -/

namespace Sys2Proof.Machine

/-- The trace neither raises CE nor polls. -/
def Unpulsed (es : List Event) : Prop := .line .ce .high ∉ es ∧ ∀ e ∈ es, e.isPoll = false

theorem Unpulsed.nil : Unpulsed [] := by simp [Unpulsed]

theorem Unpulsed.append {es fs : List Event} (h : Unpulsed es) (k : Unpulsed fs) : Unpulsed (es ++ fs) :=
  ⟨by simp [h.1, k.1], fun e he => (List.mem_append.1 he).elim (h.2 e) (k.2 e)⟩

theorem Unpulsed.ceLow : Unpulsed [.line .ce .low] := by simp [Unpulsed, Event.isPoll]

theorem Unpulsed.wait (ms : Nat) : Unpulsed [.wait ms] := by simp [Unpulsed, Event.isPoll]

@[simp] theorem ce_notMem_frameEvents (v : Level) (out : Bytes) (a : Answer) : .line .ce v ∉ frameEvents out a := by
  simp [frameEvents]

@[simp] theorem ce_notMem_pollEvents (v : Level) (us : List Byte) : .line .ce v ∉ pollEvents us := by
  induction us with
  | nil => simp
  | cons u us ih => simp [pollEvents_cons, ih]

theorem Unpulsed.frame {out : Bytes} (a : Answer) (h : out ≠ [0xFF]) : Unpulsed (frameEvents out a) :=
  ⟨ce_notMem_frameEvents _ _ _, isPoll_frameEvents h⟩

/-- What SEND emits before its payload part. -/
theorem Unpulsed.enter (a : Answer) : Unpulsed ([.line .ce .low] ++ frameEvents [0x20, 0x0A] a) :=
  Unpulsed.ceLow.append (.frame a (by simp))

theorem PollRun.ce_notMem {p : Params} {n : Nat} {es : List Event} {r : Except Reason Unit} (h : PollRun p n es r)
    (v : Level) : .line .ce v ∉ es := by
  cases h <;> simp

theorem LaunchRun.unpulsed {p : Params} {q : Bytes} {es : List Event} (h : LaunchRun p q es false) : Unpulsed es := by
  cases h with
  | badFlush bad hb => exact .frame bad (by simp)
  | badPayload d bad hd hb => exact (Unpulsed.frame _ (by simp)).append (.frame bad (by simp))

theorem LaunchRun.sent_eq {p : Params} {q : Bytes} {es : List Event} (h : LaunchRun p q es true) :
    ∃ pre a, es = pre ++ [.line .ce .high, .wait 1, .line .ce .low] ∧ Event.xfer (0xA0 :: q) a ∈ pre ∧ Unpulsed pre := by
  cases h with
  | sent d1 d2 h1 h2 =>
    exact ⟨_, .ok d2, rfl, by simp [frameEvents], (Unpulsed.frame _ (by simp)).append (.frame _ (by simp))⟩

/-- The trace has one CE pulse of 1 ms, after the frame of payload `q` and before any poll. -/
def PulsesOnce (q : Bytes) (es : List Event) : Prop :=
  ∃ pre a post, es = pre ++ .line .ce .high :: .wait 1 :: .line .ce .low :: post ∧ .xfer (0xA0 :: q) a ∈ pre ∧
    Unpulsed pre ∧ .line .ce .high ∉ post

/-- A SEND has no pulse and no poll, or one pulse. -/
theorem Behaviour.pulse_cases {s : State} {p : Bytes} {es : List Event} {r : Result} {rd : RadioState}
    {ce csn : LineLevel} (h : Behaviour s (.send p) es r rd ce csn) : Unpulsed es ∨ PulsesOnce (wire32 p) es := by
  cases h with
  | badLength _ hn | accessOk _ hn | accessBad _ hn => cases hn
  | notReady => exact .inl .nil
  | sendEnterBad p bad hr hb => exact .inl (.enter bad)
  | sendLaunchBad p d es hr hd hL => exact .inl (((Unpulsed.enter _).append (.wait 2)).append hL.unpulsed)
  | sendPolled p d es fs r hr hd hL hP =>
    obtain ⟨pre, a, rfl, hmem, hpre⟩ := hL.sent_eq
    refine .inr ⟨[.line .ce .low] ++ frameEvents [0x20, 0x0A] (.ok d) ++ [.wait 2] ++ pre, a, fs, by simp, ?_,
      ((Unpulsed.enter _).append (.wait 2)).append hpre, hP.ce_notMem .high⟩
    exact List.mem_append_right _ hmem

/-- Where such a trace raises CE, the payload frame is before, no poll is, and 1 ms and CE Low follow. -/
theorem PulsesOnce.around_high {q : Bytes} {pre post : List Event} (h : PulsesOnce q (pre ++ .line .ce .high :: post)) :
    (∃ a, Event.xfer (0xA0 :: q) a ∈ pre) ∧ (∀ e ∈ pre, e.isPoll = false) ∧
      ∃ post', post = .wait 1 :: .line .ce .low :: post' := by
  obtain ⟨pre', a, post', heq, hmem, hpre, hpost⟩ := h
  obtain ⟨rfl, -, rfl⟩ := (List.append_cons_inj_of_notMem hpre.1 (by simp [hpost])).1 heq.symm
  exact ⟨⟨a, hmem⟩, hpre.2, post', rfl⟩

/-- Every poll of such a trace comes after CE High. -/
theorem PulsesOnce.high_before_poll {q : Bytes} {pre post : List Event} {e : Event}
    (h : PulsesOnce q (pre ++ e :: post)) (he : e.isPoll = true) : .line .ce .high ∈ pre := by
  obtain ⟨pre', a, post', heq, -, hpre, -⟩ := h
  obtain ⟨rest, rfl, hrest⟩ | ⟨rest, rfl, hrest⟩ := List.append_eq_append_iff.1 heq
  · -- the poll would stand before CE High, or be it
    cases rest with
    | nil => obtain rfl := (List.cons.inj hrest).1; cases he
    | cons f rest =>
      obtain rfl := (List.cons.inj hrest).1
      simp [hpre.2 e (by simp)] at he
  · cases rest with
    | nil => obtain rfl := (List.cons.inj hrest).1; cases he
    | cons f rest => simp [(List.cons.inj hrest).1]

/-- Settles O56: by the two shapes of a SEND's trace, with no pulse and no poll, or with one pulse. -/
theorem transmitPulseIsTimed : Obligations.TransmitPulseIsTimed := by
  intro s t p es r he hd
  obtain ⟨rd, ce, csn, hB, -⟩ := behaviour_of_exec he hd
  obtain ⟨hhigh, hpoll⟩ | hpulse := hB.pulse_cases
  · constructor
    · rintro pre post rfl
      exact absurd (by simp) hhigh
    · rintro pre e post rfl h
      simp [hpoll e (by simp)] at h
  · constructor
    · rintro pre post rfl
      obtain ⟨hpayload, hnopoll, post', rfl⟩ := hpulse.around_high
      exact ⟨hpayload, hnopoll, 1, post', le_rfl, rfl⟩
    · rintro pre e post rfl h
      exact hpulse.high_before_poll h

end Sys2Proof.Machine
end

section
/-! PROOFS. The encodings (spec/30_encoding.md): which bytes are which command, and that decoder and encoder agree. -/

namespace Sys2Proof

/-! ## Command bytes (R93, R97, R100) -/

/-- The bytes a command has in the opcode map of R97. -/
def Command.owns (c : Byte) : Command → Prop
  | .rRegister => c ≤ 0x1F
  | .wRegister => 0x20 ≤ c ∧ c ≤ 0x3F
  | .rRxPayload => c = 0x61
  | .wTxPayload => c = 0xA0
  | .flushTx => c = 0xE1
  | .flushRx => c = 0xE2
  | .nop => c = 0xFF

theorem commandOf_eq_some {c : Byte} {k : Command} : commandOf c = some k ↔ k.owns c := by
  revert c
  unfold Command.owns
  cases k <;> decide

theorem commandOf_eq_none {c : Byte} : commandOf c = none ↔ ∀ k, ¬ Command.owns c k := by
  simp [Option.eq_none_iff_forall_ne_some, commandOf_eq_some]

/-- Two rows of the opcode map differ in a bit that both fix. -/
theorem commandRows_disjoint : ∀ r ∈ commandRows, ∀ q ∈ commandRows, r ≠ q →
    r.pattern &&& (r.mask &&& q.mask) ≠ q.pattern &&& (r.mask &&& q.mask) := by decide

/-- A byte that two rows hit agrees with both patterns on the bits both fix. -/
theorem CommandRow.patterns_agree {c : Byte} {r q : CommandRow} (hr : r.hits c = true) (hq : q.hits c = true) :
    r.pattern &&& (r.mask &&& q.mask) = q.pattern &&& (r.mask &&& q.mask) := by
  simp only [CommandRow.hits, beq_iff_eq] at hr hq
  rw [← hr, ← hq]
  ext i
  simp
  grind

/-- Settles O4: two rows that hit one byte would agree on the bits both fix; the unused ranges are what no command owns. -/
theorem commandBytesAreUnambiguous : Obligations.CommandBytesAreUnambiguous := by
  constructor
  · intro c r q hr hq hcr hcq
    by_contra hne
    exact commandRows_disjoint r hr q hq hne (CommandRow.patterns_agree hcr hcq)
  · intro c
    have owned : (∀ k, ¬ Command.owns c k) ↔ ¬ c ≤ 0x1F ∧ ¬ (0x20 ≤ c ∧ c ≤ 0x3F) ∧ c ≠ 0x61 ∧ c ≠ 0xA0 ∧ c ≠ 0xE1 ∧
        c ≠ 0xE2 ∧ c ≠ 0xFF := by
      constructor
      · intro h
        exact ⟨h .rRegister, h .wRegister, h .rRxPayload, h .wTxPayload, h .flushTx, h .flushRx, h .nop⟩
      · rintro ⟨h1, h2, h3, h4, h5, h6, h7⟩ (_ | _ | _ | _ | _ | _ | _) <;> assumption
    rw [commandOf_eq_none, owned]
    bv_omega

theorem addrField_cmdRead {a : Byte} (h : a ≤ 0x1F) : addrField (cmdRead a) = a := by
  revert a
  decide

theorem addrField_cmdWrite {a : Byte} (h : a ≤ 0x1F) : addrField (cmdWrite a) = a := by
  revert a
  decide

theorem cmdRead_addrField {c : Byte} (h : c ≤ 0x1F) : cmdRead (addrField c) = c := by
  revert c
  decide

theorem cmdWrite_addrField {c : Byte} (h1 : 0x20 ≤ c) (h2 : c ≤ 0x3F) : cmdWrite (addrField c) = c := by
  revert c
  decide

theorem addrField_le (c : Byte) : addrField c ≤ 0x1F := by
  revert c
  decide

theorem commandOf_cmdRead {a : Byte} (h : a ≤ 0x1F) : commandOf (cmdRead a) = some .rRegister := by
  rw [commandOf_eq_some, Machine.cmdRead_eq]
  exact h

theorem commandOf_cmdWrite {a : Byte} (h : a ≤ 0x1F) : commandOf (cmdWrite a) = some .wRegister := by
  revert a
  decide

/-! ## The decoder, case by case -/

theorem decode_readFrame {a : Byte} (h : a ≤ 0x1F) (data : Bytes) :
    decode (.frame (cmdRead a :: data)) =
      .instr (if data.length = 1 then .rRegister a else .rRegisterMulti a data.length) := by
  simp [decode, decodeFrame, commandOf_cmdRead h, decodeRead, addrField_cmdRead h]

theorem decode_writeFrame {a : Byte} (h : a ≤ 0x1F) (data : Bytes) :
    decode (.frame (cmdWrite a :: data)) = .instr (Instr.wRegisterMulti a data).canon := by
  match data with
  | [] | [_] | _ :: _ :: _ => simp [decode, decodeFrame, commandOf_cmdWrite h, decodeWrite, addrField_cmdWrite h, Instr.canon]

/-- Settles O2: a case per instruction; a register access decodes by the number of its data bytes. -/
theorem decodeOfEncodeIsTheInstruction : Obligations.DecodeOfEncodeIsTheInstruction := by
  intro d i hw
  cases i with
  | rRegister a =>
    have ha : a ≤ 0x1F := by simpa [Instr.wellFormed, addrOk] using hw
    exact decode_readFrame ha [d]
  | rRegisterMulti a n =>
    have h : a ≤ 0x1F ∧ 1 ≤ n ∧ n ≤ 32 := by simpa [Instr.wellFormed, addrOk, dataLenOk] using hw
    obtain ⟨ha, h1, -⟩ := h
    lift n to Nat using by omega
    have hn : ((n : Int) = 1) = (n = 1) := by simp
    simp [encode, decode_readFrame ha, Instr.canon, hn]
  | wRegister a v =>
    have ha : a ≤ 0x1F := by simpa [Instr.wellFormed, addrOk] using hw
    exact decode_writeFrame ha [v]
  | wRegisterMulti a bs =>
    have ha : a ≤ 0x1F := by
      simp only [Instr.wellFormed, addrOk, Bool.and_eq_true, decide_eq_true_iff] at hw
      exact hw.1
    exact decode_writeFrame ha bs
  | rRxPayload => rfl
  | wTxPayload q => rfl
  | flushTx | flushRx | nop | init | configure | send | startReceive | receive => rfl

/-- The frames of the nine bus commands: command byte, data phase, instruction (R91, R97; log 13). -/
inductive Framed : Byte → Bytes → Instr → Prop where
  | rRegister (a b : Byte) (ha : a ≤ 0x1F) : Framed (cmdRead a) [b] (.rRegister a)
  | rRegisterMulti (a : Byte) (data : Bytes) (ha : a ≤ 0x1F) (hn : data.length ≠ 1) :
      Framed (cmdRead a) data (.rRegisterMulti a data.length)
  | wRegister (a v : Byte) (ha : a ≤ 0x1F) : Framed (cmdWrite a) [v] (.wRegister a v)
  | wRegisterMulti (a : Byte) (data : Bytes) (ha : a ≤ 0x1F) (hn : data.length ≠ 1) :
      Framed (cmdWrite a) data (.wRegisterMulti a data)
  | rRxPayload (data : Bytes) (hl : data.length = 32) : Framed cmdReadPayload data .rRxPayload
  | wTxPayload (q : Bytes) : Framed cmdWritePayload q (.wTxPayload q)
  | flushTx : Framed cmdFlushTx [] .flushTx
  | flushRx : Framed cmdFlushRx [] .flushRx
  | nop : Framed cmdNop [] .nop

theorem Framed.of_decodeRead {c : Byte} (hc : c ≤ 0x1F) (data : Bytes) : Framed c data (decodeRead c data) := by
  rw [decodeRead]
  conv => arg 1; rw [← cmdRead_addrField hc]
  split
  · next hl =>
    obtain ⟨b, rfl⟩ := List.length_eq_one_iff.1 hl
    exact .rRegister _ b (addrField_le c)
  · next hn => exact .rRegisterMulti _ data (addrField_le c) hn

theorem Framed.of_decodeWrite {c : Byte} (h1 : 0x20 ≤ c) (h2 : c ≤ 0x3F) (data : Bytes) :
    Framed c data (decodeWrite c data) := by
  conv => arg 1; rw [← cmdWrite_addrField h1 h2]
  match data with
  | [v] => exact .wRegister _ v (addrField_le c)
  | [] => exact .wRegisterMulti _ [] (addrField_le c) (by simp)
  | u :: v :: data => exact .wRegisterMulti _ (u :: v :: data) (addrField_le c) (by simp)

theorem decodeExact_eq_instr {n : Nat} {i j : Instr} {c : Byte} {data : Bytes} :
    decodeExact n j c data = .instr i ↔ data.length = n ∧ i = j := by
  unfold decodeExact
  split <;> simp_all [eq_comm]

/-- A frame that decodes is one of the nine. -/
theorem framed_of_decode {c : Byte} {data : Bytes} {i : Instr} (h : decode (.frame (c :: data)) = .instr i) :
    Framed c data i := by
  simp only [decode, decodeFrame] at h
  cases hc : commandOf c with
  | none => rw [hc] at h; cases h
  | some k =>
    have hk := commandOf_eq_some.1 hc
    rw [hc] at h
    cases k with
    | rRegister => cases h; exact .of_decodeRead hk data
    | wRegister => cases h; exact .of_decodeWrite hk.1 hk.2 data
    | rRxPayload => obtain ⟨hl, rfl⟩ := decodeExact_eq_instr.1 h; obtain rfl : c = 0x61 := hk; exact .rRxPayload data hl
    | wTxPayload => cases h; obtain rfl : c = 0xA0 := hk; exact .wTxPayload data
    | flushTx =>
      obtain ⟨hl, rfl⟩ := decodeExact_eq_instr.1 h
      obtain rfl : c = 0xE1 := hk
      obtain rfl := List.eq_nil_of_length_eq_zero hl
      exact .flushTx
    | flushRx =>
      obtain ⟨hl, rfl⟩ := decodeExact_eq_instr.1 h
      obtain rfl : c = 0xE2 := hk
      obtain rfl := List.eq_nil_of_length_eq_zero hl
      exact .flushRx
    | nop =>
      obtain ⟨hl, rfl⟩ := decodeExact_eq_instr.1 h
      obtain rfl : c = 0xFF := hk
      obtain rfl := List.eq_nil_of_length_eq_zero hl
      exact .nop

theorem Framed.canon_eq {c : Byte} {data : Bytes} {i : Instr} (h : Framed c data i) : i.canon = i := by
  cases h with
  | rRegisterMulti a data ha hn => simp [Instr.canon, hn]
  | wRegisterMulti a data ha hn =>
    match data, hn with
    | [], _ | _ :: _ :: _, _ => rfl
  | _ => rfl

theorem Framed.isRequest_eq {c : Byte} {data : Bytes} {i : Instr} (h : Framed c data i) : i.isRequest = false := by
  cases h <;> rfl

/-- A frame is what its instruction encodes to, but for the dummy bytes of a read (R95; log 12). -/
theorem Framed.encode_eq {c : Byte} {data : Bytes} {i : Instr} (h : Framed c data i) (d : Byte) :
    encode d i = .frame (c :: if i.readsData then List.replicate data.length d else data) := by
  cases h with
  | rRxPayload data hl => rw [hl]; rfl
  | _ => rfl

theorem cmdRead_lt {a : Byte} (h : a ≤ 0x1F) : (cmdRead a).toNat < 0x40 := by
  revert a
  decide

theorem cmdWrite_lt {a : Byte} (h : a ≤ 0x1F) : (cmdWrite a).toNat < 0x40 := by
  revert a
  decide

theorem addrOk_of_le {a : Byte} (h : a ≤ 0x1F) : addrOk a = true := decide_eq_true h

theorem dataLenOk_eq_false {n : Int} : dataLenOk n = false ↔ n < 1 ∨ 32 < n := by
  simp only [dataLenOk, Bool.and_eq_false_iff, decide_eq_false_iff_not]
  omega

/-- A register command byte is no payload write's. -/
theorem registerFrame_iff {c : Byte} (h : c.toNat < 0x40) (p q : Prop) :
    (c.toNat < 0x40 ∧ p) ∨ (c = 0xA0 ∧ q) ↔ p := by
  have hne : c ≠ 0xA0 := by bv_omega
  constructor
  · rintro (⟨-, hp⟩ | ⟨hc, -⟩)
    · exact hp
    · exact absurd hc hne
  · exact fun hp => .inl ⟨h, hp⟩

/-- A frame's instruction is ill-formed where its data phase has a length the primitive rejects (D5). -/
theorem Framed.wellFormed_eq_false {c : Byte} {data : Bytes} {i : Instr} (h : Framed c data i) :
    i.wellFormed = false ↔
      (c.toNat < 0x40 ∧ (data.length = 0 ∨ 32 < data.length)) ∨ (c = 0xA0 ∧ data.length ≠ 32) := by
  cases h with
  | rRegister a b ha =>
    rw [registerFrame_iff (cmdRead_lt ha)]
    simp [Instr.wellFormed, addrOk_of_le ha]
  | wRegister a v ha =>
    rw [registerFrame_iff (cmdWrite_lt ha)]
    simp [Instr.wellFormed, addrOk_of_le ha]
  | rRegisterMulti a data ha =>
    rw [registerFrame_iff (cmdRead_lt ha), Instr.wellFormed, addrOk_of_le ha, Bool.true_and, dataLenOk_eq_false]
    omega
  | wRegisterMulti a data ha =>
    rw [registerFrame_iff (cmdWrite_lt ha), Instr.wellFormed, addrOk_of_le ha, Bool.true_and, dataLenOk_eq_false]
    omega
  | wTxPayload q => simp [Instr.wellFormed, payloadLenOk, cmdWritePayload]
  | rRxPayload data hl => simp [Instr.wellFormed, cmdReadPayload]
  | flushTx | flushRx | nop => simp [Instr.wellFormed, cmdFlushTx, cmdFlushRx, cmdNop]

/-- The request codes (R98): a request that decodes has one of five, and its instruction the operands of its row. -/
inductive Requested (r : Request) : Instr → Prop where
  | init (h : r.op = 0b000) : Requested r .init
  | configure (h : r.op = 0b001) : Requested r (.configure r.channel r.power)
  | send (h : r.op = 0b010) : Requested r (.send r.payload)
  | startReceive (h : r.op = 0b011) : Requested r .startReceive
  | receive (h : r.op = 0b100) : Requested r .receive

theorem requested_of_decode {r : Request} {i : Instr} (h : decode (.request r) = .instr i) : Requested r i := by
  simp only [decode, decodeRequest] at h
  split at h
  · next ho => cases h; exact .init (BitVec.eq_of_toNat_eq ho)
  · next ho => cases h; exact .configure (BitVec.eq_of_toNat_eq ho)
  · next ho => cases h; exact .send (BitVec.eq_of_toNat_eq ho)
  · next ho => cases h; exact .startReceive (BitVec.eq_of_toNat_eq ho)
  · next ho => cases h; exact .receive (BitVec.eq_of_toNat_eq ho)
  · cases h

theorem Requested.isRequest_eq {r : Request} {i : Instr} (h : Requested r i) : i.isRequest = true := by
  cases h <;> rfl

theorem Requested.encode_eq {r : Request} {i : Instr} (h : Requested r i) (d : Byte) :
    ∃ r', encode d i = .request r' ∧ r'.op = r.op ∧
      (r.op = 0b001 → r'.channel = r.channel ∧ r'.power = r.power) ∧ (r.op = 0b010 → r'.payload = r.payload) := by
  cases h with
  | _ h => exact ⟨_, rfl, h.symm, by simp [h], by simp [h]⟩

/-- Settles O3: what decodes is one of the nine frames or one of the five requests. -/
theorem encodeOfDecodeIsTheItem : Obligations.EncodeOfDecodeIsTheItem := by
  constructor
  · intro d out i h
    cases out with
    | nil => cases h
    | cons c data =>
      have hF := framed_of_decode h
      refine ⟨hF.canon_eq, hF.isRequest_eq, fun hr => ?_, fun hr => ⟨c, data, rfl, ?_⟩, ?_⟩
      · simp [hF.encode_eq, hr]
      · simp [hF.encode_eq, hr]
      · rintro c' data' ⟨⟩
        exact hF.wellFormed_eq_false
  · intro d r i h
    have hR := requested_of_decode h
    exact ⟨hR.isRequest_eq, hR.encode_eq d⟩

/-- Settles O1. -/
theorem writtenOutWordsDecode : Obligations.WrittenOutWordsDecode := by
  unfold Obligations.WrittenOutWordsDecode
  decide

/-! ## Operands (R66, R94, R96) -/

/-- The map of R66 read backwards gives each register back. -/
theorem regAt_addr (r : Reg) : regAt r.addr = some r := by
  cases r <;> decide

theorem regAt_eq_some {a : Byte} {r : Reg} : regAt a = some r ↔ r.addr = a := by
  constructor
  · intro h
    simpa using List.find?_some h
  · rintro rfl
    exact regAt_addr r

theorem regAt_eq_none {a : Byte} : regAt a = none ↔ ∀ r : Reg, r.addr ≠ a := by
  simp [Option.eq_none_iff_forall_ne_some, regAt_eq_some]

/-- Settles O5: an address holds no register when it is none of the ten. -/
theorem registerMapIsFixed : Obligations.RegisterMapIsFixed := by
  refine ⟨rfl, rfl, rfl, rfl, rfl, rfl, rfl, rfl, rfl, rfl, fun _ _ => regAt_eq_some, fun a ha => ?_⟩
  have hten : (∀ r : Reg, r.addr ≠ a) ↔ ∀ r ∈ allRegs, r.addr ≠ a := by
    constructor
    · exact fun h r _ => h r
    · exact fun h r => h r (by cases r <;> decide)
  rw [regAt_eq_none, hten]
  simp only [allRegs, List.forall_mem_cons, Reg.addr, List.not_mem_nil, false_imp_iff, implies_true, and_true]
  bv_omega

namespace Machine

/-- Settles O6: the padding stands after the `min p.length 32` bytes taken. -/
theorem wirePayloadIsThirtyTwoBytes : Obligations.WirePayloadIsThirtyTwoBytes := by
  intro p
  have hlen : (p.take 32).length = min p.length 32 := by simp [Nat.min_comm]
  refine ⟨wire32_length p, ?_, ?_⟩
  · rw [wire32, maxPayload, ← hlen, List.take_left]
  · rw [wire32, maxPayload, ← hlen, List.drop_left]
    exact fun b hb => List.eq_of_mem_replicate hb

/-- The two power bits of a byte, as a number. -/
theorem powerField_eq (v : Byte) : v.toNat / 2 % 4 = (v &&& 0x06).toNat / 2 := by
  revert v
  decide

theorem powerBits_field {p : Int} (h0 : 0 ≤ p) (h3 : p ≤ 3) :
    powerBits p &&& 0xF9 = 0 ∧ powerBits p &&& 0x06 = powerBits p ∧ (powerBits p).toNat / 2 = p.toNat := by
  interval_cases p <;> decide

/-- Settles O7: the mask and its complement share no bit. -/
theorem powerWriteKeepsOtherBits : Obligations.PowerWriteKeepsOtherBits := by
  intro v p h0 h3
  obtain ⟨hout, hin, hval⟩ := powerBits_field h0 h3
  have hsplit : ∀ m : Byte, setPower v p &&& m = (v &&& (~~~powerMask &&& m)) ||| (powerBits p &&& m) := by
    intro m
    rw [setPower]
    ext i
    simp
    grind
  have hkeep : ~~~powerMask &&& 0xF9 = (0xF9 : Byte) := by decide
  have hclear : ~~~powerMask &&& 0x06 = (0 : Byte) := by decide
  constructor
  · rw [hsplit, hout, hkeep]
    simp
  · rw [powerField_eq, hsplit, hin, hclear]
    simpa using hval

end Machine
end Sys2Proof
end

section
/-! PROOFS. The step (spec/43_config_and_driver.md R237, R238): which line it takes, what it runs, and where it stops. -/

namespace Sys2Proof.Machine

/-! ## What a step does -/

/-- A block ready for its next line serves it. -/
theorem step_eq_servePort {s : State} (hi : s.seq = .idle) (hl : s.radio ≠ .poweredDown) : step s = s.servePort := by
  simp [step, hi, hl]

theorem step_of_instr {s : State} {item : PortItem} {rest : Program} {i : Instr} (hi : s.seq = .idle)
    (hl : s.radio ≠ .poweredDown) (hp : s.port.next? = some (item, rest)) (hd : decode item = .instr i) :
    step s = exec i (s.accept i rest) := by
  simp [step_eq_servePort hi hl, State.servePort, hp, hd]

theorem step_of_reject {s : State} {item : PortItem} {rest : Program} {e : DecodeError} (hi : s.seq = .idle)
    (hl : s.radio ≠ .poweredDown) (hp : s.port.next? = some (item, rest)) (hd : decode item = .reject e) :
    step s = .refused (refusalOf e) := by
  simp [step_eq_servePort hi hl, State.servePort, hp, hd]

theorem step_of_noLine {s : State} (hi : s.seq = .idle) (hl : s.radio ≠ .poweredDown) (hp : s.port.next? = none) :
    step s = .next s := by
  simp [step_eq_servePort hi hl, State.servePort, hp]

/-- A step to a next state found no line, or ran the instruction of the next one. -/
theorem step_cases {s t : State} (h : step s = .next t) :
    (s.port.next? = none ∧ t = s) ∨
    ∃ item rest i, s.port.next? = some (item, rest) ∧ decode item = .instr i ∧ exec i (s.accept i rest) = .next t := by
  cases hs : s.seq with
  | running i k => simp [step, hs] at h
  | idle =>
    by_cases hl : s.radio = .poweredDown
    · simp [step, hs, hl] at h
    · cases hp : s.port.next? with
      | none =>
        rw [step_of_noLine hs hl hp] at h
        exact .inl ⟨rfl, (Host.Outcome.next.inj h).symm⟩
      | some line =>
        obtain ⟨item, rest⟩ := line
        cases hd : decode item with
        | reject e => rw [step_of_reject hs hl hp hd] at h; cases h
        | instr i => exact .inr ⟨item, rest, i, rfl, hd, step_of_instr hs hl hp hd ▸ h⟩

/-! ## Stops, and the level of a line -/

theorem decodeRequest_unassigned {r : Request} (h : 5 ≤ r.op.toNat) :
    decode (.request r) = .reject (.unassignedRequest r.op) := by
  obtain ⟨n, hn⟩ : ∃ n, r.op.toNat = n + 5 := ⟨_, (Nat.sub_add_cancel h).symm⟩
  simp only [decode, decodeRequest, hn]

/-- A line of the command port runs a request, a frame line a bus command. -/
theorem isRequest_of_decode_request {r : Request} {i : Instr} (h : decode (.request r) = .instr i) : i.isRequest = true :=
  (requested_of_decode h).isRequest_eq

theorem isRequest_of_decode_frame {out : Bytes} {i : Instr} (h : decode (.frame out) = .instr i) : i.isRequest = false := by
  cases out with
  | nil => cases h
  | cons c data => exact (framed_of_decode h).isRequest_eq

theorem decode_unknown {c : Byte} {data : Bytes} (h : commandOf c = none) :
    decode (.frame (c :: data)) = .reject (.unknownCommand c) := by
  simp [decode, decodeFrame, h]

theorem decodeExact_of_ne {n : Nat} {i : Instr} {c : Byte} {data : Bytes} (h : data.length ≠ n) :
    decodeExact n i c data = .reject (.badFrameLength c data.length) := if_neg h

/-! ## Words of the opcode table -/

/-- DUMMY_BYTE does not matter to the decoder (log 12). -/
theorem decode_tableItem_congr (d d' : Byte) (nbits w : Nat) :
    decode (tableItem d nbits w) = decode (tableItem d' nbits w) := by
  unfold tableItem
  split
  · rfl
  · dsimp only
    split
    · next hc => simp [decode, decodeFrame, hc, decodeRead]
    · rfl
    · next hc => simp [decode, decodeFrame, hc, decodeExact]
    · rfl
    · rfl

theorem decode_of_tableWord {d : Byte} {nbits w : Nat} {i : Instr} (h : decodeTableWord nbits w = some i) :
    decode (tableItem d nbits w) = .instr i := by
  rw [decode_tableItem_congr d 0x00]
  unfold decodeTableWord at h
  cases hd : decode (tableItem 0x00 nbits w) with
  | reject e => rw [hd] at h; cases h
  | instr j => rw [hd] at h; cases h; rfl

/-- What stands in front of a program after a line that decodes to `i` was pushed, and what is left of it. -/
theorem next?_push_of_decode {item : PortItem} {i : Instr} (h : decode item = .instr i) (p : Program) :
    (p.push item).next? = some (item, if i.isRequest then .requests p.requestList else .bus p.busLines) := by
  cases item with
  | request r => simp [isRequest_of_decode_request h]
  | frame out => simp [isRequest_of_decode_frame h]

/-! ## The statements -/

/-- Settles O9. -/
theorem stepRunsTheDecodedInstruction : Obligations.StepRunsTheDecodedInstruction :=
  fun _ _ _ _ hi hl hp hd => step_of_instr hi hl hp hd

/-- Settles O10. -/
theorem stepWithoutARequest : Obligations.StepWithoutARequest := by
  refine ⟨fun s hi hl hp => step_of_noLine hi hl ?_, fun s i k hs => ?_, fun s hi hl => ?_⟩
  · obtain hp | hp := hp <;> simp [hp]
  · simp [step, hs]
  · simp [step, hi, hl]

/-- Settles O11. -/
theorem unassignedRequestsAreRefused : Obligations.UnassignedRequestsAreRefused :=
  fun s r rest hi hl hp h5 => step_of_reject (item := .request r) (rest := .requests rest) hi hl (by simp [hp])
    (decodeRequest_unassigned h5)

/-- Settles O12: the decoder rejects each of these lines by its name. -/
theorem foreignFramesAreRefused : Obligations.ForeignFramesAreRefused := by
  constructor
  · intro s rest hi hl hp
    have hline : s.port.next? = some (.frame [], .bus rest) := by simp [hp]
    exact step_of_reject hi hl hline rfl
  · intro s c data rest hi hl hp
    have hline : s.port.next? = some (.frame (c :: data), .bus rest) := by simp [hp]
    refine ⟨fun hc => step_of_reject hi hl hline (decode_unknown hc), ?_, ?_⟩
    · rintro rfl hn
      exact step_of_reject hi hl hline (decodeExact_of_ne hn)
    · intro hc hn
      have hn' : data.length ≠ 0 := by simpa using hn
      obtain rfl | rfl | rfl := hc <;> exact step_of_reject hi hl hline (decodeExact_of_ne hn')

/-- Settles O13: DUMMY_BYTE does not matter to the decoder, and the pushed line is the next one. -/
theorem tableWordsRunAsDecoded : Obligations.TableWordsRunAsDecoded := by
  intro s nbits w i hl h
  have hd : decode (tableItem s.params.dummyByte nbits w) = .instr i := decode_of_tableWord h
  exact step_of_instr (s := s.withFetchWord nbits w) rfl hl (next?_push_of_decode hd s.port) hd

/-- Every instruction hands over one result, keeps the program and ends Idle. -/
theorem exec_hands_over {i : Instr} {s t : State} (h : exec i s = .next t) :
    t.port = s.port ∧ t.seq = .idle ∧ ∃ es r, Did s es r t := by
  obtain ⟨es, r, rd, ce, csn, -, he⟩ := exec_behaviour i s
  obtain rfl := Host.Outcome.next.inj (h.symm.trans he)
  exact ⟨rfl, rfl, es, r, rfl, rfl⟩

/-- Settles O14: a step that finds a line runs its instruction, which hands over one result. -/
theorem requestsAreServedInOrder : Obligations.RequestsAreServedInOrder := by
  refine ⟨fun s t item rest hp h => ?_, fun _ => rfl, fun s t rs hp h => ?_⟩
  · obtain ⟨hnone, -⟩ | ⟨item', rest', i, hp', -, he⟩ := step_cases h
    · simp [hp] at hnone
    · obtain ⟨rfl, rfl⟩ : item = item' ∧ rest = rest' := by simpa [hp] using hp'
      obtain ⟨hport, hseq, es, r, hd⟩ := exec_hands_over he
      exact ⟨hport, hseq, es, r, hd.trace, hd.results⟩
  · obtain ⟨hnone, rfl⟩ | ⟨item, rest, i, hp', hdec, he⟩ := step_cases h
    · cases rs with
      | nil => exact ⟨hp, .inl ⟨rfl, rfl⟩⟩
      | cons r rs => simp [hp] at hnone
    · cases rs with
      | nil => simp [hp] at hp'
      | cons r rs =>
        obtain ⟨rfl, rfl⟩ : item = .request r ∧ rest = .requests rs := by simpa [hp, eq_comm] using hp'
        exact ⟨(exec_hands_over he).1, .inr ⟨i, isRequest_of_decode_request hdec, he⟩⟩

/-- Settles O15. -/
theorem eachEventAdvancesTheSequencer : Obligations.EachEventAdvancesTheSequencer := by
  intro s i k l v ms out hs
  refine ⟨⟨?_, ?_⟩, ⟨?_, ?_⟩, ⟨?_, ?_⟩⟩
  · cases l <;> simp [setLine_run, hs]
  · cases l <;> simp [setLine_run]
  · simp [wait_run, hs]
  · simp [wait_run]
  · simp [exchange_run, hs]
  · simp [exchange_run]

/-- Settles O8. -/
theorem constructionLeavesTheTablesValues : Obligations.ConstructionLeavesTheTablesValues := by
  rintro p s rfl
  exact ⟨rfl, rfl, rfl, rfl, rfl, rfl, rfl, rfl, rfl, rfl⟩

end Sys2Proof.Machine
end

section
/-! PROOFS. RegisterAccess (spec/40_register_access.md R120 to R129): a bus command is one frame, or a length failure that
touches nothing. -/

namespace Sys2Proof.Machine

/-! ## A bus command that is one frame -/

/-- The result of a bus command that is the frame of `out`, answered `a`, and returns `f` of the bytes. -/
def accessReply (f : Bytes → Bytes) (out : Bytes) (a : Answer) : Result :=
  match frameReply out a with
  | some data => .accessOk (f data)
  | none => .accessFailed .transport

theorem frameOutcome_bind_ret {α β : Type} {p : Proc α} {f : Bytes → α} {out : Bytes} {s : State} (g : α → β)
    (h : p s = frameOutcome f out s) :
    Proc.bind p (fun a => Proc.ret (g a)) s = frameOutcome (fun data => g (f data)) out s := by
  simp only [Proc.bind, h, frameOutcome]
  cases frameReply out (s.answerTo out) <;> rfl

/-- Only what is returned for the frame's number of bytes matters. -/
theorem frameOutcome_congr {α : Type} {f g : Bytes → α} {out : Bytes} {s : State}
    (h : ∀ data, data.length = out.length → f data = g data) : frameOutcome f out s = frameOutcome g out s := by
  unfold frameOutcome
  cases hr : frameReply out (s.answerTo out) with
  | none => rfl
  | some data => simp [h data (frameReply_eq_some.1 hr).2]

/-- The whole state after a bus command that is one frame. -/
theorem runAccess_of_frame {p : Proc Bytes} {f : Bytes → Bytes} {out : Bytes} {s : State} (h : p s = frameOutcome f out s) :
    runAccess p s = { s.afterFrame out with
      seq := .idle
      results := s.results ++ [accessReply f out (s.answerTo out)] } := by
  simp only [runAccess, h, frameOutcome, accessReply, State.finish]
  cases frameReply out (s.answerTo out) <;> rfl

/-- Settles O16. -/
theorem frameIsOneBracketedExchange : Obligations.FrameIsOneBracketedExchange := fun s out => frame_run out s

/-- Settles O17. -/
theorem registerReadRuns : Obligations.RegisterReadRuns := fun s _ ha =>
  congrArg Host.Outcome.next (runAccess_of_frame (frameOutcome_bind_ret (fun v => [v]) (read_run ha s)))

/-- Settles O18. -/
theorem registerMultiReadRuns : Obligations.RegisterMultiReadRuns := by
  rintro s a n _ ha h1 h32 rfl
  have h := readMulti_run ha (n := n) (by omega) (by omega) s
  rw [Int.toNat_natCast, frameOutcome_congr (g := List.drop 1) (by simp)] at h
  exact congrArg Host.Outcome.next (runAccess_of_frame h)

/-- Settles O19. -/
theorem registerWriteRuns : Obligations.RegisterWriteRuns := fun s _ v ha =>
  congrArg Host.Outcome.next (runAccess_of_frame (frameOutcome_bind_ret (fun _ => []) (write_run ha v s)))

/-- Settles O20. -/
theorem registerMultiWriteRuns : Obligations.RegisterMultiWriteRuns := fun s _ _ ha h1 h32 =>
  congrArg Host.Outcome.next (runAccess_of_frame (frameOutcome_bind_ret (fun _ => []) (writeMulti_run ha h1 h32 s)))

/-- Settles O21. -/
theorem payloadReadRuns : Obligations.PayloadReadRuns := by
  rintro s _ rfl
  have h := readPayload_run s
  rw [frameOutcome_congr (g := List.drop 1) (by simp)] at h
  exact congrArg Host.Outcome.next (runAccess_of_frame h)

/-- Settles O22. -/
theorem payloadWriteRuns : Obligations.PayloadWriteRuns := fun s _ h =>
  congrArg Host.Outcome.next (runAccess_of_frame (frameOutcome_bind_ret (fun _ => []) (writePayload_run h s)))

/-- Settles O23. -/
theorem flushCommandsRun : Obligations.FlushCommandsRun := by
  rintro s i c (⟨rfl, rfl⟩ | ⟨rfl, rfl⟩)
  · exact congrArg Host.Outcome.next (runAccess_of_frame (frameOutcome_bind_ret (fun _ => []) (flushTx_run s)))
  · exact congrArg Host.Outcome.next (runAccess_of_frame (frameOutcome_bind_ret (fun _ => []) (flushRx_run s)))

/-- Settles O24. -/
theorem statusReadRuns : Obligations.StatusReadRuns := fun s =>
  congrArg Host.Outcome.next (runAccess_of_frame (frameOutcome_bind_ret (fun v => [v]) (status_run s)))

/-! ## Operands of a length the primitive rejects -/

theorem addrOk_eq_false {a : Byte} : addrOk a = false ↔ 0x1F < a := by
  simp [addrOk]

theorem runAccess_congr {p q : Proc Bytes} {s : State} (h : p s = q s) : runAccess p s = runAccess q s := by
  simp only [runAccess, h]

theorem runAccess_of_length {p : Proc Bytes} {s : State} (h : p s = (.error .length, s)) :
    runAccess p s = { s with seq := .idle, results := s.results ++ [.accessFailed .length] } := by
  simp [runAccess, h, accessResult, State.finish]

/-- An ill-formed instruction is one of the five bus commands that check a length, and answers Failure(Length) (D5, D6). -/
theorem exec_of_illFormed {i : Instr} (h : i.wellFormed = false) (s : State) :
    exec i s = .next { s with seq := .idle, results := s.results ++ [.accessFailed .length] } := by
  cases i with
  | rRegister a =>
    have ha : 0x1F < a := addrOk_eq_false.1 h
    exact congrArg Host.Outcome.next (runAccess_of_length (Proc.bind_of_error (by simp only [RA.read, if_pos ha, Proc.fail_run])))
  | rRegisterMulti a n =>
    have hc : 0x1F < a ∨ n < 1 ∨ 32 < n := by
      simpa only [Instr.wellFormed, Bool.and_eq_false_iff, addrOk_eq_false, dataLenOk_eq_false] using h
    exact congrArg Host.Outcome.next (runAccess_of_length (by simp only [RA.readMulti, if_pos hc, Proc.fail_run]))
  | wRegister a v =>
    have ha : 0x1F < a := addrOk_eq_false.1 h
    exact congrArg Host.Outcome.next (runAccess_of_length (Proc.bind_of_error (by simp only [RA.write, if_pos ha, Proc.fail_run])))
  | wRegisterMulti a bs =>
    have hc : 0x1F < a ∨ bs.length < 1 ∨ 32 < bs.length := by
      simp only [Instr.wellFormed, Bool.and_eq_false_iff, addrOk_eq_false, dataLenOk_eq_false] at h
      exact_mod_cast h
    exact congrArg Host.Outcome.next
      (runAccess_of_length (Proc.bind_of_error (by simp only [RA.writeMulti, if_pos hc, Proc.fail_run])))
  | wTxPayload q =>
    have hq : q.length ≠ 32 := by simpa [Instr.wellFormed, payloadLenOk] using h
    exact congrArg Host.Outcome.next
      (runAccess_of_length (Proc.bind_of_error (by simp only [RA.writePayload, if_pos hq, Proc.fail_run])))
  | rRxPayload | flushTx | flushRx | nop | init | configure | send | startReceive | receive => cases h

/-- A register frame and a payload write decode, whatever the length of their data phase. -/
theorem exists_decode_of_checked {c : Byte} (data : Bytes) (h : c.toNat < 0x40 ∨ c = 0xA0) :
    ∃ i, decode (.frame (c :: data)) = .instr i := by
  obtain h | rfl := h
  · by_cases hr : c ≤ 0x1F
    · have hc : commandOf c = some .rRegister := commandOf_eq_some.2 hr
      exact ⟨decodeRead c data, by simp only [decode, decodeFrame, hc]⟩
    · have hc : commandOf c = some .wRegister := commandOf_eq_some.2 ⟨by bv_omega, by bv_omega⟩
      exact ⟨decodeWrite c data, by simp only [decode, decodeFrame, hc]⟩
  · exact ⟨.wTxPayload data, rfl⟩

/-- Settles O25: such a line decodes to an ill-formed instruction. -/
theorem lengthFailuresTouchNothing : Obligations.LengthFailuresTouchNothing := by
  refine ⟨fun s i hi => exec_of_illFormed hi s, fun s c data rest hi hl hp hbad => ?_⟩
  obtain ⟨i, hd⟩ := exists_decode_of_checked data (hbad.imp And.left And.left)
  have hline : s.port.next? = some (.frame (c :: data), .bus rest) := by simp [hp]
  exact (step_of_instr hi hl hline hd).trans (exec_of_illFormed ((framed_of_decode hd).wellFormed_eq_false.2 hbad) _)

/-- The one byte after the status is the second byte returned. -/
theorem readMulti_one {a : Byte} (ha : a ≤ 0x1F) (s : State) :
    RA.readMulti a 1 s = Proc.bind (RA.read a) (fun v => Proc.ret [v]) s := by
  have hsame : ∀ data : Bytes, data.length = [a, s.params.dummyByte].length → data.tail = [data.getD 1 0] := by
    intro data hl
    obtain ⟨x, y, rfl⟩ := List.length_eq_two.1 hl
    rfl
  calc RA.readMulti a 1 s
      = frameOutcome List.tail [a, s.params.dummyByte] s := readMulti_run ha (by omega) (by omega) s
    _ = frameOutcome (fun data => [data.getD 1 0]) [a, s.params.dummyByte] s := frameOutcome_congr hsame
    _ = Proc.bind (RA.read a) (fun v => Proc.ret [v]) s := (frameOutcome_bind_ret (fun v => [v]) (read_run ha s)).symm

theorem writeMulti_one {a : Byte} (ha : a ≤ 0x1F) (v : Byte) (s : State) : RA.writeMulti a [v] s = RA.write a v s :=
  (writeMulti_run ha (by simp) (by simp) s).trans (write_run ha v s).symm

/-- Settles O26: one frame for an address of five bits, a length failure for any other. -/
theorem multiByteAccessOfOneByteIsSingle : Obligations.MultiByteAccessOfOneByteIsSingle := by
  have hbad : ∀ {i j : Instr} (s : State), i.wellFormed = false → j.wellFormed = false → exec i s = exec j s :=
    fun s hi hj => (exec_of_illFormed hi s).trans (exec_of_illFormed hj s).symm
  constructor
  · intro s a
    by_cases ha : a ≤ 0x1F
    · exact congrArg Host.Outcome.next (runAccess_congr (readMulti_one ha s))
    · have hf : addrOk a = false := decide_eq_false ha
      exact hbad s (by simp [Instr.wellFormed, hf]) (by simp [Instr.wellFormed, hf])
  · intro s a v
    by_cases ha : a ≤ 0x1F
    · refine congrArg Host.Outcome.next (runAccess_congr ?_)
      simp only [Proc.bind, writeMulti_one ha]
    · have hf : addrOk a = false := decide_eq_false ha
      exact hbad s (by simp [Instr.wellFormed, hf]) (by simp [Instr.wellFormed, hf])

end Sys2Proof.Machine
end

section
/-! PROOFS. The requests with given answers (spec/41_mode_controller.md R161 to R163, spec/42_transceiver.md R190 to R192,
spec/43_config_and_driver.md R230 to R236): each frame is served or broken by the answer laid down for it, and the
request's whole state follows. -/

namespace Sys2Proof.Machine

/-! ## Frames with given answers -/

section
variable {α : Type} {p : Proc α} {f : Bytes → α} {out : Bytes} {s : State} {a : Answer} {rest : List Answer}

theorem frame_replied {data : Bytes} (hp : p s = frameOutcome f out s) (hA : s.answers = .ok data :: rest)
    (hl : data.length = out.length) :
    p s = (.ok (f data), s.afterFrame out) ∧
      Reached s (frameEvents out (.ok data)) s.radio s.ce .high (s.afterFrame out) := by
  obtain ⟨hr, e⟩ := frameOutcome_of_serves f hA rfl hl
  exact ⟨hp.trans hr, Reached.afterFrame e⟩

theorem frame_broken (hp : p s = frameOutcome f out s) (hA : s.answers = a :: rest) (hb : a.breaks s.params out) :
    p s = (.error .transport, s.afterFrame out) ∧
      Reached s (frameEvents out a) s.radio s.ce .high (s.afterFrame out) := by
  obtain ⟨hr, e⟩ := frameOutcome_of_breaks f hA hb
  exact ⟨hp.trans hr, Reached.afterFrame e⟩

end

theorem frame_served {p : Proc Unit} {out : Bytes} {s : State} {a : Answer} {rest : List Answer}
    (hp : p s = frameOutcome (fun _ => ()) out s) (hA : s.answers = a :: rest) (ha : a.serves out) :
    p s = (.ok (), s.afterFrame out) ∧ Reached s (frameEvents out a) s.radio s.ce .high (s.afterFrame out) := by
  obtain ⟨data, rfl, hl⟩ := ha
  exact frame_replied hp hA hl

/-- A frame after what a procedure did: it keeps RadioState and CE. -/
theorem Reached.frame {s t u : State} {es fs : List Event} {rd : RadioState} {ce csn : LineLevel}
    (h : Reached s es rd ce csn t) (k : Reached t fs t.radio t.ce .high u) : Reached s (es ++ fs) rd ce .high u := by
  have hk := h.trans k
  rwa [h.radio, h.ceIs] at hk

/-- The whole state after a request, from what its handler emitted and the answers it used up. -/
theorem request_runs {i : Instr} {s t : State} {h : State → Response × State} {x : Response} {es tr : List Event}
    {rd : RadioState} {ce csn : LineLevel} {n : Nat} {rest : List Answer} (he : exec i s = .next (serve h s))
    (hh : h s = (x, t)) (hR : Reached s es rd ce csn t) (hn : es.countP Event.isXfer = n) (ha : s.answers.drop n = rest)
    (htr : s.trace ++ es = tr) :
    exec i s = .next { s with
      radio := rd
      ce := ce
      csn := csn
      seq := .idle
      answers := rest
      draws := s.draws + n
      trace := tr
      results := s.results ++ [.response x] } := by
  rw [he, serve_of hh, hR.finish_eq, hn, ha, htr]

theorem guarded_eq {h : State → Response × State} {s : State} (hr : s.radio ≠ .uninitialized) : DRV.guarded h s = h s := by
  simp [DRV.guarded, initialized_eq_true.2 hr]

/-! ## INIT -/

/-- The steps of MC.INITIALIZE, with the operands the state `r` holds (R161). -/
def initSteps (r : State) : List (Proc Unit) :=
  [setLine .ce .low, setLine .csn .high, wait startupMs, RA.write Reg.config.addr configInit,
   RA.write Reg.setupAw.addr setupAw5, RA.write Reg.rfCh.addr (channelByte r.channel),
   RA.write Reg.rfSetup.addr (initSetup r.params.rfSetupBase r.power), RA.writeMulti Reg.txAddr.addr r.txAddr.toList,
   RA.writeMulti Reg.rxAddrP0.addr r.rxAddr.toList, RA.write Reg.enAa.addr pipe0, RA.write Reg.enRxaddr.addr pipe0,
   RA.write Reg.rxPwP0.addr rxPayloadWidth, RA.write Reg.status.addr allFlags, RA.flushTx, RA.flushRx]

/-- What DRV.INIT makes of its procedure's result (R232, D16). -/
def initEnd : Except Reason Unit × State → Response × State
  | (.ok _, t) => (.ok, t.setRadio .standby)
  | (.error r, t) => (.failure r, t.setRadio .uninitialized)

theorem drvInit_eq (s : State) : DRV.init s = initEnd (Proc.seq (initSteps s) s) := rfl

/-- Settles O28: the twelve steps after the startup wait are the twelve frames, each served. -/
theorem initRunsItsTwelveFrames : Obligations.InitRunsItsTwelveFrames := by
  intro s as rest hA hS
  obtain ⟨t, ht, hR⟩ := seq_frames_serve (initFrames_isFrame s) as s.initSetup rest rfl hA hS
  have hlen : as.length = 12 := hS.length_eq.symm
  have hrun : DRV.init s = (.ok, t.setRadio .standby) := (drvInit_eq s).trans (congrArg initEnd ht)
  have hreach := ((initSetup_reached s).trans hR).trans (Reached.setRadio t .standby)
  rw [hR.ceIs, hR.csnIs] at hreach
  exact request_runs rfl hrun hreach (by simp [initSetupEvents, countP_framesEvents hS, hlen, Event.isXfer])
    (by simp [hA, ← hlen]) (by simp)

/-- Settles O29: the first frame that is not served ends the sequence. -/
theorem initStopsAtItsFirstFailingFrame : Obligations.InitStopsAtItsFirstFailingFrame := by
  intro s before after out oks rest bad ho hA hS hb
  obtain ⟨t, ht, hR⟩ := seq_frames_break (initFrames_isFrame s) before after out oks rest bad s.initSetup ho hA hS hb
  have hrun : DRV.init s = (.failure .transport, t.setRadio .uninitialized) :=
    (drvInit_eq s).trans (congrArg initEnd ht)
  have hreach := ((initSetup_reached s).trans hR).trans (Reached.setRadio t .uninitialized)
  rw [hR.ceIs, hR.csnIs] at hreach
  exact request_runs rfl hrun hreach (by simp [initSetupEvents, countP_framesEvents hS, Event.isXfer])
    (by simp [hA]) (by simp)

/-! ## CONFIGURE -/

theorem configure_of_invalid {c p : Int} (hv : RC.validate c p = false) (s : State) :
    exec (.configure c p) s = .next { s with seq := .idle, results := s.results ++ [.response .validationError] } := by
  have hrun : DRV.configure c p s = (.validationError, s) := by simp [DRV.configure, hv]
  exact congrArg Host.Outcome.next (serve_of hrun)

/-- Settles O30. -/
theorem configureRejectsOverlargeOperands : Obligations.ConfigureRejectsOverlargeOperands :=
  fun s _ _ h => configure_of_invalid (validate_eq_false.2 (by omega)) s

/-- Settles O31. -/
theorem configureRejectsNegativeOperands : Obligations.ConfigureRejectsNegativeOperands :=
  fun s _ _ h => configure_of_invalid (validate_eq_false.2 (by omega)) s

/-- Settles O32. -/
theorem configureCachesBeforeInit : Obligations.ConfigureCachesBeforeInit := by
  intro s c p hc0 hc hp0 hp hr
  have hrun : DRV.configure c p s = (.ok, s.setChannelPower c p) := by
    simp [DRV.configure, validate_eq_true.2 ⟨hc0, hc, hp0, hp⟩, State.initialized, hr]
  exact congrArg Host.Outcome.next (serve_of hrun)

/-- The read-modify-write byte of R96 with its mask written out. -/
theorem setPower_eq (v : Byte) (p : Int) :
    setPower v p = (v &&& (0xF9 : Byte)) ||| (BitVec.ofInt 8 p <<< (1 : Nat)) := rfl

section
variable {s t : State} {c p : Int} {a1 : Answer} {rest : List Answer}

/-- A CONFIGURE of an initialized block with valid operands whose RC.APPLY succeeds. -/
theorem configure_of_apply_ok (hv : RC.validate c p = true) (hr : s.radio ≠ .uninitialized)
    (h : RC.apply c p s = (.ok (), t)) : DRV.configure c p s = (.ok, t.setChannelPower c p) := by
  simp [DRV.configure, hv, initialized_eq_true.2 hr, h]

theorem configure_of_apply_error {r : Reason} (hv : RC.validate c p = true) (hr : s.radio ≠ .uninitialized)
    (h : RC.apply c p s = (.error r, t)) : DRV.configure c p s = (.failure r, t) := by
  simp [DRV.configure, hv, initialized_eq_true.2 hr, h]

/-- RC.APPLY after its first frame is served: it reads RF_SETUP (R231). -/
theorem apply_of_channel_served (p : Int) (hA : s.answers = a1 :: rest) (h1 : a1.serves [0x25, BitVec.ofInt 8 c]) :
    ∃ t, RC.apply c p s =
        Proc.bind (RA.read Reg.rfSetup.addr) (fun v => RA.write Reg.rfSetup.addr (setPower v p)) t ∧
      RA.read Reg.rfSetup.addr t = frameOutcome (fun data => data.getD 1 0) [0x06, s.params.dummyByte] t ∧
      t.answers = rest ∧ t.params = s.params ∧
      Reached s (frameEvents [0x25, BitVec.ofInt 8 c] a1) s.radio s.ce .high t := by
  obtain ⟨h, hR⟩ := frame_served (write_reg_run .rfCh (channelByte c) s) hA h1
  exact ⟨_, Proc.bind_of_ok h, read_run (by decide) _, by simp [hA], rfl, hR⟩

/-- RC.APPLY after its first two frames are served: it writes RF_SETUP back (R231). -/
theorem apply_of_setup_read {st v : Byte} (p : Int) (hA : s.answers = a1 :: .ok [st, v] :: rest)
    (h1 : a1.serves [0x25, BitVec.ofInt 8 c]) :
    ∃ t, RC.apply c p s = RA.write Reg.rfSetup.addr (setPower v p) t ∧ t.answers = rest ∧ t.params = s.params ∧
      Reached s (frameEvents [0x25, BitVec.ofInt 8 c] a1 ++ frameEvents [0x06, s.params.dummyByte] (.ok [st, v]))
        s.radio s.ce .high t := by
  obtain ⟨t, h, hread, hAt, hpar, hR⟩ := apply_of_channel_served p hA h1
  obtain ⟨hr, hR2⟩ := frame_replied hread hAt rfl
  have hRR := hR.frame hR2
  exact ⟨_, h.trans (Proc.bind_of_ok hr), by simp [hAt], hpar, hRR⟩

end

/-- Settles O33: all three frames are served. -/
theorem configureAppliesAfterInit : Obligations.ConfigureAppliesAfterInit := by
  intro s c p a1 a3 st v rest hc0 hc hp0 hp hr hA h1 h3
  obtain ⟨t, ht, hAt, -, hR⟩ := apply_of_setup_read p hA h1
  obtain ⟨hw, hR3⟩ := frame_served (write_reg_run .rfSetup (setPower v p) t) hAt h3
  have hrun := configure_of_apply_ok (validate_eq_true.2 ⟨hc0, hc, hp0, hp⟩) hr (ht.trans hw)
  have hRR := hR.frame hR3
  have hfin := congrArg (State.setChannelPower · c p) (hRR.finish_eq (.response .ok))
  refine congrArg Host.Outcome.next ((serve_of hrun).trans (hfin.trans ?_))
  simp [State.setChannelPower, hA, setPower_eq, Reg.addr]

/-- Settles O34: each of the three frames may be the one that breaks. -/
theorem configureFailureKeepsChannelAndPower : Obligations.ConfigureFailureKeepsChannelAndPower := by
  intro s c p a1 a2 a3 st v rest hc0 hc hp0 hp hr
  have hv := validate_eq_true.2 ⟨hc0, hc, hp0, hp⟩
  refine ⟨fun hA hb => ?_, fun hA h1 hb => ?_, fun hA h1 hb => ?_⟩
  · obtain ⟨h, hR⟩ := frame_broken (write_reg_run .rfCh (channelByte c) s) hA hb
    exact request_runs rfl (configure_of_apply_error hv hr (Proc.bind_of_error h)) hR (by simp) (by simp [hA]) rfl
  · obtain ⟨t, h, hread, hAt, hpar, hR⟩ := apply_of_channel_served p hA h1
    obtain ⟨hr2, hR2⟩ := frame_broken hread hAt (hpar ▸ hb)
    have hRR := hR.frame hR2
    exact request_runs rfl (configure_of_apply_error hv hr (h.trans (Proc.bind_of_error hr2))) hRR (by simp)
      (by simp [hA]) (by simp)
  · obtain ⟨t, ht, hAt, hpar, hR⟩ := apply_of_setup_read p hA h1
    obtain ⟨hw, hR3⟩ := frame_broken (write_reg_run .rfSetup (setPower v p) t) hAt (hpar ▸ hb)
    have hRR := hR.frame hR3
    exact request_runs rfl (configure_of_apply_error hv hr (ht.trans hw)) hRR (by simp) (by simp [hA])
      (by simp [setPower_eq, Reg.addr])

/-! ## The mode entries and SEND -/

section
variable {s t : State} {p : Bytes} {a a1 a2 a3 : Answer} {us : List Byte} {rest : List Answer}

/-- The state in which a mode entry sends its CONFIG frame (R162, R163). -/
def State.ceLowered (s : State) : State := (s.drive .ce .low).emit (.line .ce .low)

theorem enterTransmit_served (hA : s.answers = a :: rest) (ha : a.serves [0x20, 0x0A]) :
    ∃ t, MC.enterTransmit s = (.ok (), t) ∧
      Reached s ([.line .ce .low] ++ frameEvents [0x20, 0x0A] a ++ [.wait 2]) .transmitting .low .high t := by
  obtain ⟨h, hR⟩ := frame_served (write_reg_run .config configTransmit s.ceLowered) hA ha
  exact ⟨_, (Proc.seq_of_ok rfl).trans ((Proc.seq_of_ok h).trans rfl),
    (((Reached.ceLine s .low).trans hR).trans (Reached.wait _ 2)).trans (Reached.setRadio _ .transmitting)⟩

theorem enterTransmit_broken (hA : s.answers = a :: rest) (hb : a.breaks s.params [0x20, 0x0A]) :
    ∃ t, MC.enterTransmit s = (.error .transport, t) ∧
      Reached s ([.line .ce .low] ++ frameEvents [0x20, 0x0A] a) s.radio .low .high t := by
  obtain ⟨h, hR⟩ := frame_broken (write_reg_run .config configTransmit s.ceLowered) hA hb
  exact ⟨_, (Proc.seq_of_ok rfl).trans (Proc.seq_of_error h), (Reached.ceLine s .low).trans hR⟩

theorem enterReceive_served (hA : s.answers = a :: rest) (ha : a.serves [0x20, 0x0B]) :
    ∃ t, MC.enterReceive s = (.ok (), t) ∧
      Reached s ([.line .ce .low] ++ frameEvents [0x20, 0x0B] a ++ [.wait 2] ++ [.line .ce .high])
        .listening .high .high t := by
  obtain ⟨h, hR⟩ := frame_served (write_reg_run .config configReceive s.ceLowered) hA ha
  exact ⟨_, (Proc.seq_of_ok rfl).trans ((Proc.seq_of_ok h).trans rfl),
    ((((Reached.ceLine s .low).trans hR).trans (Reached.wait _ 2)).trans (Reached.ceLine _ .high)).trans
      (Reached.setRadio _ .listening)⟩

theorem enterReceive_broken (hA : s.answers = a :: rest) (hb : a.breaks s.params [0x20, 0x0B]) :
    ∃ t, MC.enterReceive s = (.error .transport, t) ∧
      Reached s ([.line .ce .low] ++ frameEvents [0x20, 0x0B] a) s.radio .low .high t := by
  obtain ⟨h, hR⟩ := frame_broken (write_reg_run .config configReceive s.ceLowered) hA hb
  exact ⟨_, (Proc.seq_of_ok rfl).trans (Proc.seq_of_error h), (Reached.ceLine s .low).trans hR⟩

theorem send_of_run {r : Except Reason Unit} (hr : s.radio ≠ .uninitialized)
    (h : Proc.bind MC.enterTransmit (fun _ => PT.transmit p) s = (r, t)) : DRV.send p s = (respond r, t) := by
  rw [DRV.send, guarded_eq hr, h]

/-- TRANSMIT with its flush and payload frames served goes on to its poll (R190). -/
theorem transmit_launched (hA : s.answers = a2 :: a3 :: rest) (h2 : a2.serves [0xE1]) (h3 : a3.serves (0xA0 :: wire32 p)) :
    ∃ t, PT.transmit p s = PT.poll pollLimit t ∧
      Reached s (frameEvents [0xE1] a2 ++ frameEvents (0xA0 :: wire32 p) a3 ++ [.line .ce .high, .wait 1, .line .ce .low])
        s.radio .low .high t := by
  obtain ⟨hf, hRf⟩ := frame_served (flushTx_run s) hA h2
  obtain ⟨hp, hRp⟩ := frame_served (transmit_payload_run p (s.afterFrame [0xE1])) (rest := rest) (by simp [hA]) h3
  have hsteps := (Proc.seq_of_ok hf).trans ((Proc.seq_of_ok hp).trans (pulse_run _))
  exact ⟨_, Proc.bind_of_ok hsteps, (hRf.trans hRp).trans (pulse_reached _)⟩

theorem transmit_flush_broken (hA : s.answers = a :: rest) (hb : a.breaks s.params [0xE1]) :
    ∃ t, PT.transmit p s = (.error .transport, t) ∧ Reached s (frameEvents [0xE1] a) s.radio s.ce .high t := by
  obtain ⟨hf, hR⟩ := frame_broken (flushTx_run s) hA hb
  exact ⟨_, Proc.bind_of_error (Proc.seq_of_error hf), hR⟩

theorem transmit_payload_broken (hA : s.answers = a2 :: a :: rest) (h2 : a2.serves [0xE1])
    (hb : a.breaks s.params (0xA0 :: wire32 p)) :
    ∃ t, PT.transmit p s = (.error .transport, t) ∧
      Reached s (frameEvents [0xE1] a2 ++ frameEvents (0xA0 :: wire32 p) a) s.radio s.ce .high t := by
  obtain ⟨hf, hRf⟩ := frame_served (flushTx_run s) hA h2
  obtain ⟨hp, hRp⟩ := frame_broken (transmit_payload_run p (s.afterFrame [0xE1])) (rest := rest) (by simp [hA]) hb
  exact ⟨_, Proc.bind_of_error ((Proc.seq_of_ok hf).trans (Proc.seq_of_error hp)), hRf.trans hRp⟩

/-- What SEND emits before its first poll (R162, R190). -/
def launchedEvents (p : Bytes) (a1 a2 a3 : Answer) : List Event :=
  [.line .ce .low] ++ frameEvents [0x20, 0x0A] a1 ++ [.wait 2] ++ frameEvents [0xE1] a2 ++
    frameEvents (0xA0 :: wire32 p) a3 ++ [.line .ce .high, .wait 1, .line .ce .low]

@[simp] theorem countP_launchedEvents (p : Bytes) (a1 a2 a3 : Answer) :
    (launchedEvents p a1 a2 a3).countP Event.isXfer = 3 := by
  simp [launchedEvents, Event.isXfer]

/-- SEND with its first three frames served goes on to its poll (R190). -/
theorem send_launched (hA : s.answers = a1 :: a2 :: a3 :: rest) (h1 : a1.serves [0x20, 0x0A]) (h2 : a2.serves [0xE1])
    (h3 : a3.serves (0xA0 :: wire32 p)) :
    ∃ t, Proc.bind MC.enterTransmit (fun _ => PT.transmit p) s = PT.poll pollLimit t ∧ t.answers = rest ∧
      Reached s (launchedEvents p a1 a2 a3) .transmitting .low .high t := by
  obtain ⟨t, ht, hR⟩ := enterTransmit_served hA h1
  obtain ⟨u, hu, hR'⟩ := transmit_launched (s := t) (rest := rest) (by simp [hR.moved.answers, hA, Event.isXfer]) h2 h3
  have hRR := hR.trans hR'
  rw [hR.radio] at hRR
  exact ⟨u, (Proc.bind_of_ok ht).trans hu, by simp [hRR.moved.answers, hA, Event.isXfer],
    by simpa [launchedEvents] using hRR⟩

@[simp] theorem pollAnswers_length (us : List Byte) : (pollAnswers us).length = us.length := by
  simp [pollAnswers]

@[simp] theorem drop_pollAnswers (us : List Byte) (n : Nat) (as : List Answer) :
    (pollAnswers us ++ as).drop (us.length + n) = as.drop n := by
  rw [← pollAnswers_length us, List.drop_length_add_append]

/-- SEND that went on to its poll makes its unflagged polls, and has one left (R190). -/
theorem send_polled (hA : s.answers = a1 :: a2 :: a3 :: (pollAnswers us ++ rest)) (h1 : a1.serves [0x20, 0x0A])
    (h2 : a2.serves [0xE1]) (h3 : a3.serves (0xA0 :: wire32 p)) (hu : Unflagged us) (hn : us.length < 1000) :
    ∃ n u, Proc.bind MC.enterTransmit (fun _ => PT.transmit p) s = PT.poll (n + 1) u ∧ u.answers = rest ∧
      Reached s (launchedEvents p a1 a2 a3 ++ pollEvents us) .transmitting .low .high u := by
  obtain ⟨n, hlim⟩ : ∃ n, pollLimit = n + 1 + us.length := ⟨pollLimit - 1 - us.length, by unfold pollLimit; omega⟩
  obtain ⟨t, ht, hAt, hR⟩ := send_launched hA h1 h2 h3
  obtain ⟨u, hu', hR'⟩ := poll_unflagged_run us (n + 1) t rest hR.csnIs hu hAt
  rw [hlim] at ht
  exact ⟨n, u, ht.trans hu', by simp [hR'.moved.answers, hAt], hR.frame hR'⟩

/-- A flagged poll whose clear is served (R190). -/
theorem pollEnd_of_clear {v : Byte} (h : RA.write Reg.status.addr (txFlags v) s = (.ok (), t)) :
    PT.pollEnd v s = (pollResult v, t) := by
  refine (Proc.bind_of_ok h).trans ?_
  by_cases hv : v &&& 0x20 = 0
  · have hf : flagSet v txDs = false := by simpa [flagSet, txDs] using hv
    simp only [hf, pollResult, if_pos hv]
    rfl
  · have hf : flagSet v txDs = true := by simpa [flagSet, txDs] using hv
    simp only [hf, pollResult, if_neg hv]
    rfl

theorem respond_pollResult (v : Byte) :
    respond (pollResult v) = if v &&& 0x20 = 0 then .failure .maxRetries else .ok := by
  unfold pollResult
  split <;> rfl

end

/-- Settles O35: the unflagged polls, then the flagged one and its clear. -/
theorem sendEndsAtItsFirstFlaggedPoll : Obligations.SendEndsAtItsFirstFlaggedPoll := by
  intro s p a1 a2 a3 a4 us v rest hr hu hn hv hA h1 h2 h3 h4
  obtain ⟨n, u, hrun, hAu, hR⟩ := send_polled hA h1 h2 h3 hu hn
  obtain ⟨hst, hRs⟩ := frame_replied (status_run u) hAu rfl
  obtain ⟨hw, hRw⟩ := frame_served (write_reg_run .status (txFlags v) (u.afterFrame [0xFF])) (rest := rest)
    (by simp [hAu]) h4
  have hsend := send_of_run hr (hrun.trans ((poll_flagged hst hv).trans (pollEnd_of_clear hw)))
  rw [respond_pollResult] at hsend
  exact request_runs rfl hsend ((hR.frame hRs).frame hRw) (by simp; omega) (by simp [hA])
    (by simp [launchedEvents, Reg.addr, txFlags_eq])

/-- Settles O36: all 1000 polls are unflagged. -/
theorem sendTimesOutAfterAThousandPolls : Obligations.SendTimesOutAfterAThousandPolls := by
  intro s p a1 a2 a3 us rest hr hu hn hA h1 h2 h3
  obtain ⟨t, ht, hAt, hR⟩ := send_launched hA h1 h2 h3
  obtain ⟨u, hu', hR'⟩ := poll_unflagged_run us 0 t rest hR.csnIs hu hAt
  have hlim : pollLimit = 0 + us.length := by rw [hn]; rfl
  rw [hlim] at ht
  exact request_runs rfl (send_of_run hr (ht.trans hu')) (hR.frame hR') (by simp [hn]) (by simp [hA, ← hn])
    (by simp [launchedEvents])

/-- Settles O37. -/
theorem sendStopsWhenEnteringFails : Obligations.SendStopsWhenEnteringFails := by
  intro s p bad rest hr hA hb
  obtain ⟨t, ht, hR⟩ := enterTransmit_broken hA hb
  exact request_runs rfl (send_of_run hr (Proc.bind_of_error ht)) hR (by simp [Event.isXfer]) (by simp [hA]) (by simp)

/-- Settles O38: the mode is entered, and the flush or the payload frame breaks. -/
theorem sendStopsBeforeThePulse : Obligations.SendStopsBeforeThePulse := by
  intro s p a1 a2 a3 rest hr h1
  refine ⟨fun hA hb => ?_, fun hA h2 hb => ?_⟩
  · obtain ⟨t, ht, hR⟩ := enterTransmit_served hA h1
    obtain ⟨u, hu, hR'⟩ := transmit_flush_broken (p := p) (s := t) (rest := rest)
      (by simp [hR.moved.answers, hA, Event.isXfer]) (hR.moved.params ▸ hb)
    exact request_runs rfl (send_of_run hr ((Proc.bind_of_ok ht).trans hu)) (hR.frame hR') (by simp [Event.isXfer])
      (by simp [hA]) (by simp)
  · obtain ⟨t, ht, hR⟩ := enterTransmit_served hA h1
    obtain ⟨u, hu, hR'⟩ := transmit_payload_broken (s := t) (rest := rest)
      (by simp [hR.moved.answers, hA, Event.isXfer]) h2 (hR.moved.params ▸ hb)
    exact request_runs rfl (send_of_run hr ((Proc.bind_of_ok ht).trans hu)) (hR.frame hR') (by simp [Event.isXfer])
      (by simp [hA]) (by simp)

/-- Settles O39: the poll after the unflagged ones breaks, or is flagged and its clear breaks. -/
theorem sendStopsAtAFailingPollOrClear : Obligations.SendStopsAtAFailingPollOrClear := by
  intro s p a1 a2 a3 bad us v rest hr hu hn h1 h2 h3
  refine ⟨fun hA hb => ?_, fun hA hv hb => ?_⟩
  · obtain ⟨n, u, hrun, hAu, hR⟩ := send_polled hA h1 h2 h3 hu hn
    obtain ⟨hst, hRs⟩ := frame_broken (status_run u) hAu (hR.moved.params ▸ hb)
    exact request_runs rfl (send_of_run hr (hrun.trans (Proc.bind_of_error hst))) (hR.frame hRs)
      (by simp; omega) (by simp [hA]) (by simp [launchedEvents])
  · obtain ⟨n, u, hrun, hAu, hR⟩ := send_polled hA h1 h2 h3 hu hn
    obtain ⟨hst, hRs⟩ := frame_replied (status_run u) hAu rfl
    obtain ⟨hw, hRw⟩ := frame_broken (write_reg_run .status (txFlags v) (u.afterFrame [0xFF])) (rest := rest)
      (by simp [hAu]) (hR.moved.params ▸ hb)
    exact request_runs rfl (send_of_run hr (hrun.trans ((poll_flagged hst hv).trans (Proc.bind_of_error hw))))
      ((hR.frame hRs).frame hRw) (by simp; omega) (by simp [hA]) (by simp [launchedEvents, Reg.addr, txFlags_eq])

/-! ## START_RECEIVE and RECEIVE -/

/-- Settles O44. -/
theorem requestsBeforeInitAreNotReady : Obligations.RequestsBeforeInitAreNotReady := by
  intro s i hr hi
  have hguard : ∀ h, DRV.guarded h s = (.notReady, s) := fun h => by simp [DRV.guarded, State.initialized, hr]
  obtain ⟨p, rfl⟩ | rfl | rfl := hi <;> exact congrArg Host.Outcome.next (serve_of (hguard _))

theorem startReceive_of_run {s t : State} {r : Except Reason Unit} (hr : s.radio ≠ .uninitialized)
    (h : MC.enterReceive s = (r, t)) : DRV.startReceive s = (respond r, t) := by
  rw [DRV.startReceive, guarded_eq hr, h]

/-- Settles O40. -/
theorem startReceiveRuns : Obligations.StartReceiveRuns := by
  intro s a rest
  refine ⟨fun hr => requestsBeforeInitAreNotReady s _ hr (.inr (.inl rfl)), fun hr hA ha => ?_, fun hr hA hb => ?_⟩
  · obtain ⟨t, ht, hR⟩ := enterReceive_served hA ha
    exact request_runs rfl (startReceive_of_run hr ht) hR (by simp [Event.isXfer]) (by simp [hA]) (by simp)
  · obtain ⟨t, ht, hR⟩ := enterReceive_broken hA hb
    exact request_runs rfl (startReceive_of_run hr ht) hR (by simp [Event.isXfer]) (by simp [hA]) (by simp)

theorem receive_of_ok {s t : State} {d : Option Bytes} (hr : s.radio ≠ .uninitialized)
    (h : PT.receive s = (.ok d, t)) : DRV.receive s = (.received d, t) := by
  rw [DRV.receive, guarded_eq hr, h]

theorem receive_of_error {s t : State} {r : Reason} (hr : s.radio ≠ .uninitialized)
    (h : PT.receive s = (.error r, t)) : DRV.receive s = (.failure r, t) := by
  rw [DRV.receive, guarded_eq hr, h]

/-- Settles O41. -/
theorem receiveFindsNothing : Obligations.ReceiveFindsNothing := by
  intro s v rest hr hA hv
  obtain ⟨hst, hR⟩ := frame_replied (status_run s) hA rfl
  exact request_runs rfl (receive_of_ok hr ((receive_of_status hst).1 hv)) hR (by simp) (by simp [hA]) rfl

/-- PT.RECEIVE that saw RX_DR, with its clear served, reads the payload (R192). -/
theorem receive_cleared {s : State} {v : Byte} {a2 : Answer} {rest : List Answer} (hA : s.answers = .ok [v] :: a2 :: rest)
    (hv : v &&& 0x40 ≠ 0) (h2 : a2.serves [0x27, 0x40]) :
    ∃ t, PT.receive s = Proc.bind RA.readPayload (fun data => Proc.ret (some data)) t ∧ t.answers = rest ∧
      RA.readPayload t = frameOutcome List.tail (0x61 :: List.replicate 32 s.params.dummyByte) t ∧ t.params = s.params ∧
      Reached s (frameEvents [0xFF] (.ok [v]) ++ frameEvents [0x27, 0x40] a2) s.radio s.ce .high t := by
  obtain ⟨hst, hR⟩ := frame_replied (status_run s) hA rfl
  obtain ⟨hw, hRw⟩ := frame_served (write_reg_run .status rxDr (s.afterFrame [0xFF])) (rest := rest) (by simp [hA]) h2
  exact ⟨_, ((receive_of_status hst).2 hv).trans (Proc.bind_of_ok hw), by simp [hA], readPayload_run _, rfl, hR.frame hRw⟩

/-- Settles O42. -/
theorem receiveDeliversThePayload : Obligations.ReceiveDeliversThePayload := by
  intro s v st a2 data rest hr hv hl h2 hA
  obtain ⟨t, ht, hAt, hread, -, hR⟩ := receive_cleared hA hv h2
  obtain ⟨hp, hRp⟩ := frame_replied hread hAt (by simp [hl])
  exact request_runs rfl (receive_of_ok hr (ht.trans (Proc.bind_of_ok hp))) (hR.frame hRp) (by simp) (by simp [hA])
    (by simp)

/-- Settles O43: each of the three frames may be the one that breaks. -/
theorem receiveStopsAtAFailingFrame : Obligations.ReceiveStopsAtAFailingFrame := by
  intro s v a2 bad rest hr
  refine ⟨fun hA hb => ?_, fun hA hv hb => ?_, fun hA hv h2 hb => ?_⟩
  · obtain ⟨hst, hR⟩ := frame_broken (status_run s) hA hb
    exact request_runs rfl (receive_of_error hr (Proc.bind_of_error hst)) hR (by simp) (by simp [hA]) rfl
  · obtain ⟨hst, hR⟩ := frame_replied (status_run s) hA rfl
    obtain ⟨hw, hRw⟩ := frame_broken (write_reg_run .status rxDr (s.afterFrame [0xFF])) (rest := rest) (by simp [hA]) hb
    exact request_runs rfl (receive_of_error hr (((receive_of_status hst).2 hv).trans (Proc.bind_of_error hw)))
      (hR.frame hRw) (by simp) (by simp [hA]) (by simp [Reg.addr, rxDr])
  · obtain ⟨t, ht, hAt, hread, hpar, hR⟩ := receive_cleared hA hv h2
    obtain ⟨hp, hRp⟩ := frame_broken hread hAt (hpar ▸ hb)
    exact request_runs rfl (receive_of_error hr (ht.trans (Proc.bind_of_error hp))) (hR.frame hRp) (by simp)
      (by simp [hA]) (by simp)

end Sys2Proof.Machine
end

section
/-! PROOFS. The rules of the whole machine that speak of the state (spec/10_state.md R22 to R26, R39, spec/41_mode_controller.md
R164, spec/70_reset_and_hazards.md R301): from what every behaviour leaves. -/

namespace Sys2Proof.Machine

section
variable {s t : State} {i : Instr} {es : List Event} {r : Result} {rd : RadioState} {ce csn : LineLevel}

/-! ## Channel and power (R25, R233) -/

theorem channelAfter_ok (s : State) (c p : Int) : channelAfter s (.configure c p) (.response .ok) = c := by
  simp [channelAfter]

theorem powerAfter_ok (s : State) (c p : Int) : powerAfter s (.configure c p) (.response .ok) = p := by
  simp [powerAfter]

/-- Channel and power stay, or are those of a valid CONFIGURE that answers Ok. -/
theorem Behaviour.channelPower_cases (h : Behaviour s i es r rd ce csn) :
    (channelAfter s i r = s.channel ∧ powerAfter s i r = s.power) ∨
    ∃ c p, i = .configure c p ∧ RC.validate c p = true ∧ channelAfter s i r = c ∧ powerAfter s i r = p := by
  by_cases hok : ∃ c p, i = .configure c p ∧ r = .response .ok
  · obtain ⟨c, p, rfl, rfl⟩ := hok
    refine .inr ⟨c, p, rfl, ?_, channelAfter_ok s c p, powerAfter_ok s c p⟩
    generalize hr : Result.response .ok = r at h
    cases h with
    | configureCached _ _ hv | configureApplied _ _ _ _ hv => exact hv
    | configureInvalid => cases hr
    | badLength _ hn | accessOk _ hn | accessBad _ hn => cases hn
    | notReady _ hi => simp at hi
  · refine .inl ?_
    cases i with
    | configure c p =>
      have hne : r ≠ .response .ok := fun hr => hok ⟨c, p, rfl, hr⟩
      exact ⟨if_neg hne, if_neg hne⟩
    | _ => exact ⟨rfl, rfl⟩

theorem Behaviour.validFields (h : Behaviour s i es r rd ce csn) (hf : s.validFields) :
    (stateAfter s i es r rd ce csn).validFields := by
  obtain ⟨hc, hp⟩ | ⟨c, p, rfl, hv, hc, hp⟩ := h.channelPower_cases
  · simpa only [State.validFields, stateAfter, hc, hp] using hf
  · simpa only [State.validFields, stateAfter, hc, hp] using validate_eq_true.1 hv

theorem exec_validFields (hf : s.validFields) (h : exec i s = .next t) : t.validFields := by
  obtain ⟨es, r, rd, ce, csn, hB, he⟩ := exec_behaviour i s
  obtain rfl := Host.Outcome.next.inj (h.symm.trans he)
  exact hB.validFields hf

theorem validFields_construct (p : Params) : (State.construct p).validFields := by
  have hc := p.defaultChannel.isLt
  have hp := p.defaultPower.isLt
  simp only [State.validFields, State.construct]
  omega

/-- Settles O47. -/
theorem channelAndPowerStayValid : Obligations.ChannelAndPowerStayValid := by
  refine ⟨validFields_construct, fun s t hf h => ?_, fun s t i h hne => ?_⟩
  · obtain ⟨-, rfl⟩ | ⟨item, rest, i, -, -, he⟩ := step_cases h
    · exact hf
    · exact exec_validFields (s := s.accept i rest) hf he
  · obtain ⟨es, r, rd, ce, csn, hB, he⟩ := exec_behaviour i s
    obtain rfl := Host.Outcome.next.inj (h.symm.trans he)
    obtain ⟨hc, hp⟩ | ⟨c, p, rfl, hv, hc, hp⟩ := hB.channelPower_cases
    · exact absurd hne (by simp [stateAfter, hc, hp])
    · obtain ⟨h1, h2, h3, h4⟩ := validate_eq_true.1 hv
      exact ⟨c, p, rfl, h1, h2, h3, h4, hc, hp⟩

/-! ## The invariant (R24, R26, R39, R103, R164) -/

/-- RadioState and the lines stay those of a block between requests. -/
theorem Behaviour.modes (h : Behaviour s i es r rd ce csn) (hl : s.radio ≠ .poweredDown) (hm : s.ceFollowsMode) :
    rd ≠ .poweredDown ∧ (stateAfter s i es r rd ce csn).ceFollowsMode := by
  obtain ⟨hce, hdriven⟩ := hm
  unfold State.ceFollowsMode
  cases h with
  | badLength | configureInvalid | configureCached | notReady => exact ⟨hl, hce, hdriven⟩
  | accessOk | accessBad | configureApplied | receiveOk | receiveBad =>
    exact ⟨hl, hce, fun hr => ⟨(hdriven hr).1, rfl⟩⟩
  | sendEnterBad | startReceiveBad => exact ⟨hl, by simp [stateAfter], by simp [stateAfter]⟩
  | initOk | initBad | sendLaunchBad | sendPolled | startReceiveOk => simp [stateAfter]

/-- An instruction accepted by a settled block leaves it settled. -/
theorem exec_settled {rest : Program} (hs : s.Settled) (h : exec i (s.accept i rest) = .next t) : t.Settled := by
  obtain ⟨-, hl, hf, ha, hb, hm⟩ := hs
  obtain ⟨es, r, rd, ce, csn, hB, he⟩ := exec_behaviour i (s.accept i rest)
  obtain rfl := Host.Outcome.next.inj (h.symm.trans he)
  obtain ⟨hrd, hmode⟩ := hB.modes hl hm
  exact ⟨rfl, hrd, hB.validFields hf, ha, hB.busReleased hb, hmode⟩

theorem step_settled (hs : s.Settled) (h : step s = .next t) : t.Settled := by
  obtain ⟨-, rfl⟩ | ⟨item, rest, i, -, -, he⟩ := step_cases h
  · exact hs
  · exact exec_settled hs he

/-- Settles O45: every behaviour keeps a settled block settled, and a step keeps the level of the program. -/
theorem everyStepKeepsTheInvariant : Obligations.EveryStepKeepsTheInvariant := by
  refine ⟨fun s t hs h => ⟨step_settled hs.toSettled h, ?_⟩, fun s t hs h => step_settled hs h⟩
  obtain ⟨rs, hp⟩ := hs.requester
  exact ⟨rs.tail, (requestsAreServedInOrder.2.2 s t rs hp h).1⟩

theorem inv_construct (p : Params) : (State.construct p).Inv where
  idle := rfl
  launch := by simp [State.construct]
  fields := validFields_construct p
  addresses := ⟨rfl, rfl⟩
  released := by simp [State.busReleased, State.construct]
  ce := by simp [State.ceFollowsMode, State.construct]
  requester := ⟨[], rfl⟩

/-- Settles O46. -/
theorem constructionMeetsTheInvariant : Obligations.ConstructionMeetsTheInvariant :=
  ⟨inv_construct Config.params, inv_construct⟩

/-! ## RadioState and CE (R22, R164) -/

theorem respond_ne_notReady (x : Except Reason Unit) : respond x ≠ .notReady := by
  cases x <;> simp [respond, Response.notReady, Response.ok, Response.failure]

theorem failure_ne_notReady (q : Reason) : Response.failure q ≠ .notReady := respond_ne_notReady (.error q)

theorem notReady_ne_ok : Response.notReady ≠ .ok := by simp [Response.notReady, Response.ok]

/-- INIT's two ends (R232, D16). -/
theorem Behaviour.init_end (h : Behaviour s .init es r rd ce csn) :
    ce = .low ∧ rd = if r = .response .ok then .standby else .uninitialized := by
  cases h with
  | badLength _ hn | accessOk _ hn | accessBad _ hn => cases hn
  | notReady _ hi => simp at hi
  | initOk => simp
  | initBad => simp [respond_failure_ne_ok]

/-- SEND's ends: refused, or failed inside ENTER_TRANSMIT after four events, or Transmitting (R234, D17). -/
theorem Behaviour.send_end {p : Bytes} (h : Behaviour s (.send p) es r rd ce csn) :
    (ce = if r = .response .notReady then s.ce else .low) ∧ rd = if es.length ≤ 4 then s.radio else .transmitting := by
  cases h with
  | badLength _ hn | accessOk _ hn | accessBad _ hn => cases hn
  | notReady => simp
  | sendEnterBad => simp [failure_ne_notReady]
  | sendLaunchBad => exact ⟨by simp [failure_ne_notReady], (if_neg (by simp; omega)).symm⟩
  | sendPolled => exact ⟨by simp [respond_ne_notReady], (if_neg (by simp; omega)).symm⟩

/-- START_RECEIVE's ends (R235, D17). -/
theorem Behaviour.startReceive_end (h : Behaviour s .startReceive es r rd ce csn) :
    (ce = if r = .response .notReady then s.ce else if r = .response .ok then .high else .low) ∧
      rd = if r = .response .ok then .listening else s.radio := by
  cases h with
  | badLength _ hn | accessOk _ hn | accessBad _ hn => cases hn
  | notReady => simp [notReady_ne_ok]
  | startReceiveOk => simp [notReady_ne_ok.symm]
  | startReceiveBad => simp [failure_ne_notReady, respond_failure_ne_ok]

/-- Any other instruction keeps RadioState and CE. -/
theorem Behaviour.kept_end (h : Behaviour s i es r rd ce csn) (h1 : i ≠ .init) (h2 : ∀ p, i ≠ .send p)
    (h3 : i ≠ .startReceive) : ce = s.ce ∧ rd = s.radio := by
  cases h with
  | initOk | initBad => exact absurd rfl h1
  | sendEnterBad p | sendLaunchBad p | sendPolled p => exact absurd rfl (h2 p)
  | startReceiveOk | startReceiveBad => exact absurd rfl h3
  | _ => exact ⟨rfl, rfl⟩

/-- Settles O48. -/
theorem radioStateFollowsTheTable : Obligations.RadioStateFollowsTheTable := by
  intro s t i es r he hd
  obtain ⟨rd, ce, csn, hB, rfl⟩ := behaviour_of_exec he hd
  refine ⟨?_, ?_, ?_, fun h1 h2 h3 => (hB.kept_end h1 h2 h3).2⟩
  · rintro rfl
    exact hB.init_end.2
  · rintro p rfl
    exact hB.send_end.2
  · rintro rfl
    exact hB.startReceive_end.2

/-- Settles O49. -/
theorem chipEnableAtTheEndOfARequest : Obligations.ChipEnableAtTheEndOfARequest := by
  intro s t i es r he hd
  obtain ⟨rd, ce, csn, hB, rfl⟩ := behaviour_of_exec he hd
  refine ⟨?_, ?_, ?_, fun h1 h2 h3 => (hB.kept_end h1 h2 h3).1⟩
  · rintro rfl
    exact hB.init_end.1
  · rintro p rfl
    exact hB.send_end.1
  · rintro rfl
    exact hB.startReceive_end.1

/-! ## What an instruction leaves alone (R20) -/

theorem ApplyRun.ne_nil {pr : Params} {c p : Int} {x : Except Reason Unit} (h : ApplyRun pr c p es x) : es ≠ [] := by
  cases h <;> simp [frameEvents]

theorem ReceiveRun.ne_nil {pr : Params} {x : Except Reason (Option Bytes)} (h : ReceiveRun pr es x) : es ≠ [] := by
  cases h <;> simp [frameEvents]

/-- CSN ends High if an event was emitted. -/
theorem Behaviour.csn_eq (h : Behaviour s i es r rd ce csn) : csn = if es = [] then s.csn else .high := by
  cases h with
  | badLength | configureInvalid | configureCached | notReady => simp
  | configureApplied c p es x hv hr hA => simp [hA.ne_nil]
  | receiveOk es d hr hR => simp [hR.ne_nil]
  | receiveBad es q hr hR => simp [hR.ne_nil]
  | _ => simp [frameEvents, initSetupEvents]

theorem channelPowerAfter_of_not_ok (h : ∀ c p, i = .configure c p → r ≠ .response .ok) :
    channelAfter s i r = s.channel ∧ powerAfter s i r = s.power := by
  cases i with
  | configure c p => exact ⟨if_neg (h c p rfl), if_neg (h c p rfl)⟩
  | _ => exact ⟨rfl, rfl⟩

/-- Settles O50: the state every behaviour leaves is written out in `stateAfter`. -/
theorem instructionsTouchOnlyTheirFields : Obligations.InstructionsTouchOnlyTheirFields := by
  intro s t i he
  obtain ⟨es, r, rd, ce, csn, hB, he'⟩ := exec_behaviour i s
  obtain rfl := Host.Outcome.next.inj (he.symm.trans he')
  refine ⟨es, r, ⟨rfl, rfl⟩, ?_, channelPowerAfter_of_not_ok, rfl, rfl, rfl, rfl, rfl, hB.csn_eq, rfl, ?_⟩
  · rintro c p rfl rfl
    exact ⟨channelAfter_ok s c p, powerAfter_ok s c p⟩
  · simp [stateAfter]

/-! ## Before INIT (R301) -/

/-- Before INIT has succeeded a request emits nothing. -/
theorem Behaviour.beforeInit (h : Behaviour s i es r rd ce csn) (hr : s.radio = .uninitialized) (hi : i.isRequest = true)
    (hn : i ≠ .init) : es = [] ∧ rd = s.radio ∧ ce = s.ce ∧ csn = s.csn ∧
      ((∀ c p, i ≠ .configure c p) → r = .response .notReady) := by
  cases h with
  | badLength _ hb | accessOk _ hb | accessBad _ hb => simp [hb] at hi
  | initOk | initBad => exact absurd rfl hn
  | configureInvalid c p | configureCached c p => exact ⟨rfl, rfl, rfl, rfl, fun h => absurd rfl (h c p)⟩
  | notReady => exact ⟨rfl, rfl, rfl, rfl, fun _ => rfl⟩
  | _ => contradiction

/-- Settles O58. -/
theorem nothingIsEmittedBeforeInit : Obligations.NothingIsEmittedBeforeInit := by
  intro s t i hr hi hn he
  obtain ⟨es, r, rd, ce, csn, hB, he'⟩ := exec_behaviour i s
  obtain rfl := Host.Outcome.next.inj (he.symm.trans he')
  obtain ⟨rfl, rfl, rfl, rfl, hres⟩ := hB.beforeInit hr hi hn
  refine ⟨by simp [stateAfter], hr, rfl, rfl, by simp [stateAfter], rfl, fun h => ?_⟩
  rw [← hres h]
  rfl

end

end Sys2Proof.Machine
end

section
/-! PROOFS. Failures, responses, bounds and waits (spec/60_exceptions.md R270 to R275, spec/43_config_and_driver.md R239,
spec/70_reset_and_hazards.md R313): what the traces of the runs count. -/

namespace Sys2Proof.Machine

/-! ## Failing frames (R272, R275) -/

/-- No exchange of the trace failed. -/
def NeverFails (es : List Event) : Prop := ∀ e ∈ es, e.failed = false

/-- The trace's only failed exchange is in its last frame. -/
def FailsLast (p : Params) (es : List Event) : Prop :=
  ∃ pre out bad, es = pre ++ frameEvents out bad ∧ NeverFails pre ∧ bad.breaks p out

@[simp] theorem neverFails_nil : NeverFails [] := by simp [NeverFails]

@[simp] theorem neverFails_append (es fs : List Event) : NeverFails (es ++ fs) ↔ NeverFails es ∧ NeverFails fs := by
  simp [NeverFails, or_imp, forall_and]

@[simp] theorem neverFails_line_cons (l : Line) (v : Level) (es : List Event) :
    NeverFails (.line l v :: es) ↔ NeverFails es := by simp [NeverFails, Event.failed]

@[simp] theorem neverFails_wait_cons (ms : Nat) (es : List Event) : NeverFails (.wait ms :: es) ↔ NeverFails es := by
  simp [NeverFails, Event.failed]

@[simp] theorem neverFails_frameEvents (out data : Bytes) :
    NeverFails (frameEvents out (.ok data)) ↔ data.length = out.length := by
  simp [NeverFails, frameEvents, Event.failed]

@[simp] theorem neverFails_pollEvents (us : List Byte) : NeverFails (pollEvents us) := failed_pollEvents us

theorem FailsLast.frame {p : Params} {out : Bytes} {bad : Answer} (h : bad.breaks p out) :
    FailsLast p (frameEvents out bad) := ⟨[], out, bad, rfl, neverFails_nil, h⟩

theorem FailsLast.after {p : Params} {es fs : List Event} (h : FailsLast p fs) (hes : NeverFails es) :
    FailsLast p (es ++ fs) := by
  obtain ⟨pre, out, bad, rfl, hpre, hb⟩ := h
  exact ⟨es ++ pre, out, bad, by simp, by simp [hes, hpre], hb⟩

/-- The failed exchange is followed by its CSN release alone. -/
theorem FailsLast.post_eq {p : Params} {pre post : List Event} {e : Event} (h : FailsLast p (pre ++ e :: post))
    (he : e.failed = true) : post = [.line .csn .high] := by
  obtain ⟨pre', out, bad, heq, hpre', hb⟩ := h
  have hbefore : NeverFails (pre' ++ [.line .csn .low]) := by simp [hpre']
  have hsplit : pre ++ e :: post = (pre' ++ [.line .csn .low]) ++ .xfer out bad :: [.line .csn .high] := by
    simpa [frameEvents] using heq
  have hnot : ∀ {fs : List Event}, NeverFails fs → e ∉ fs := by
    intro fs hfs hm
    simp [hfs e hm] at he
  have hhigh : NeverFails [.line .csn .high] := by simp
  obtain rfl : e = .xfer out bad := by
    have hm : e ∈ (pre' ++ [.line .csn .low]) ++ .xfer out bad :: [.line .csn .high] := hsplit ▸ by simp
    obtain hm | hm := List.mem_append.1 hm
    · exact absurd hm (hnot hbefore)
    · obtain hm | hm := List.mem_cons.1 hm
      · exact hm
      · exact absurd hm (hnot hhigh)
  exact ((List.append_cons_inj_of_notMem (hnot hbefore) (hnot hhigh)).1 hsplit.symm).2.2.symm

theorem FailsLast.exists_failed {p : Params} {es : List Event} (h : FailsLast p es) : ∃ e ∈ es, e.failed = true := by
  obtain ⟨pre, out, bad, rfl, -, hb⟩ := h
  exact ⟨.xfer out bad, by simp [frameEvents], failed_of_breaks hb⟩

/-- The trace fails in its last frame, and the transport can fail, exactly where `failed` says so. -/
def FailsAs (p : Params) (es : List Event) (failed : Prop) : Prop :=
  (NeverFails es ∧ ¬ failed) ∨ (FailsLast p es ∧ failed)

theorem FailsAs.after {p : Params} {es fs : List Event} {q : Prop} (h : FailsAs p fs q) (hes : NeverFails es) :
    FailsAs p (es ++ fs) q :=
  h.imp (fun ⟨hfs, hq⟩ => ⟨by simp [hes, hfs], hq⟩) (fun ⟨hfs, hq⟩ => ⟨hfs.after hes, hq⟩)

theorem ApplyRun.failsAs {pr : Params} {c p : Int} {es : List Event} {x : Except Reason Unit} (h : ApplyRun pr c p es x) :
    FailsAs pr es (x = .error .transport) := by
  cases h with
  | done d1 d3 st v h1 h3 => exact .inl ⟨by simp [h1, h3], by simp⟩
  | badChannel bad hb => exact .inr ⟨.frame hb, rfl⟩
  | badRead d1 bad h1 hb => exact .inr ⟨(FailsLast.frame hb).after (by simp [h1]), rfl⟩
  | badSetup d1 st v bad h1 hb => exact .inr ⟨(FailsLast.frame hb).after (by simp [h1]), rfl⟩

theorem ReceiveRun.failsAs {pr : Params} {es : List Event} {x : Except Reason (Option Bytes)} (h : ReceiveRun pr es x) :
    FailsAs pr es (x = .error .transport) := by
  cases h with
  | nothing v hv => exact .inl ⟨by simp, by simp⟩
  | found v d2 d3 hv h2 h3 => exact .inl ⟨by simp [h2, h3], by simp⟩
  | badStatus bad hb => exact .inr ⟨.frame hb, rfl⟩
  | badClear v bad hv hb => exact .inr ⟨(FailsLast.frame hb).after (by simp), rfl⟩
  | badPayload v d2 bad hv h2 hb => exact .inr ⟨(FailsLast.frame hb).after (by simp [h2]), rfl⟩

theorem LaunchRun.neverFails {pr : Params} {q : Bytes} {es : List Event} (h : LaunchRun pr q es true) : NeverFails es := by
  cases h with
  | sent d1 d2 h1 h2 => simp [h1, h2]

theorem LaunchRun.failsLast {pr : Params} {q : Bytes} {es : List Event} (h : LaunchRun pr q es false) : FailsLast pr es := by
  cases h with
  | badFlush bad hb => exact .frame hb
  | badPayload d bad h1 hb => exact (FailsLast.frame hb).after (by simp [h1])

theorem pollResult_cases (v : Byte) : pollResult v = .ok () ∨ pollResult v = .error .maxRetries := by
  unfold pollResult
  split <;> simp

theorem PollRun.failsAs {pr : Params} {n : Nat} {es : List Event} {x : Except Reason Unit} (h : PollRun pr n es x) :
    FailsAs pr es (x = .error .transport) := by
  cases h with
  | flagged us v data hu hn hv hl => exact .inl ⟨by simp [hl], by obtain h | h := pollResult_cases v <;> simp [h]⟩
  | timeout us hu hn => exact .inl ⟨by simp, by simp⟩
  | badPoll us bad hu hn hb => exact .inr ⟨(FailsLast.frame hb).after (by simp), rfl⟩
  | badClear us v bad hu hn hv hb => exact .inr ⟨(FailsLast.frame hb).after (by simp), rfl⟩

/-- The result is a Failure(Transport), of a request or of a bus command. -/
def Result.isTransport (r : Result) : Prop := r = .response (.failure .transport) ∨ r = .accessFailed .transport

theorem isTransport_ok : ¬ (Result.response .ok).isTransport := by
  simp [Result.isTransport, Response.ok, Response.failure]

theorem isTransport_failure (q : Reason) : (Result.response (.failure q)).isTransport ↔ q = .transport := by
  simp [Result.isTransport, Response.failure]

theorem isTransport_respond (x : Except Reason Unit) :
    (Result.response (respond x)).isTransport ↔ x = .error .transport := by
  cases x with
  | ok => simp [respond, isTransport_ok]
  | error q => simp [respond, isTransport_failure]

/-- An instruction's trace has a failed exchange, in its last frame, exactly where its result is Failure(Transport). -/
theorem Behaviour.failsAs {s : State} {i : Instr} {es : List Event} {r : Result} {rd : RadioState} {ce csn : LineLevel}
    (h : Behaviour s i es r rd ce csn) : FailsAs s.params es r.isTransport := by
  cases h with
  | badLength | configureInvalid | notReady =>
    exact .inl ⟨neverFails_nil, by simp [Result.isTransport, Response.validationError, Response.notReady, Response.failure]⟩
  | configureCached => exact .inl ⟨neverFails_nil, isTransport_ok⟩
  | accessOk i hi out data res hl => exact .inl ⟨by simp [hl], by simp [Result.isTransport]⟩
  | accessBad i hi out bad hb => exact .inr ⟨.frame hb, .inr rfl⟩
  | initOk as hS =>
    have hframes : NeverFails (framesEvents (initFrames s) as) := failed_framesEvents hS
    exact .inl ⟨by simp [initSetupEvents, hframes], isTransport_ok⟩
  | initBad before after out oks bad ho hS hb =>
    have hbefore : NeverFails (framesEvents before oks) := failed_framesEvents hS
    exact .inr ⟨((FailsLast.frame hb).after hbefore).after (by simp [initSetupEvents]), .inl rfl⟩
  | configureApplied c p es x hv hr hA => simpa only [isTransport_respond] using hA.failsAs
  | sendEnterBad p bad hr hb | startReceiveBad bad hr hb => exact .inr ⟨(FailsLast.frame hb).after (by simp), .inl rfl⟩
  | sendLaunchBad p d es hr hd hL => exact .inr ⟨hL.failsLast.after (by simp [hd]), .inl rfl⟩
  | sendPolled p d es fs x hr hd hL hP =>
    simpa only [isTransport_respond] using (hP.failsAs.after hL.neverFails).after (by simp [hd])
  | startReceiveOk d hr hd => exact .inl ⟨by simp [hd], isTransport_ok⟩
  | receiveOk es d hr hR =>
    have hd : ¬ (Result.response (.received d)).isTransport := by
      cases d <;> simp [Result.isTransport, Response.received, Response.ok, Response.failure]
    simpa [hd] using hR.failsAs
  | receiveBad es q hr hR => simpa [isTransport_failure] using hR.failsAs

/-- Settles O57. -/
theorem theFirstFailingFrameEndsTheRequest : Obligations.TheFirstFailingFrameEndsTheRequest := by
  intro s t i es r he hd
  obtain ⟨rd, ce, csn, hB, -⟩ := behaviour_of_exec he hd
  obtain ⟨hnever, hr⟩ | ⟨hlast, hr⟩ := hB.failsAs
  · refine ⟨fun pre e post hes hf => ?_, fun h => absurd h hr⟩
    simp [hnever e (hes ▸ by simp)] at hf
  · refine ⟨fun pre e post hes hf => ⟨?_, hr⟩, fun _ => hlast.exists_failed⟩
    exact FailsLast.post_eq (hes ▸ hlast) hf

/-- A bus command's failure is its length check's or the transport's. -/
theorem Behaviour.accessFailed_cases {s : State} {i : Instr} {es : List Event} {q : Reason} {rd : RadioState}
    {ce csn : LineLevel} (h : Behaviour s i es (.accessFailed q) rd ce csn) :
    (q = .length ∧ i.wellFormed = false) ∨ q = .transport := by
  cases h with
  | badLength _ _ hw => exact .inl ⟨rfl, hw⟩
  | accessBad => exact .inr rfl

/-- Settles O27: an exchange fails only where the transport can fail. -/
theorem noTransportFailureWhenNoneIsPossible : Obligations.NoTransportFailureWhenNoneIsPossible := by
  intro s t i es r hcan he hd
  obtain ⟨rd, ce, csn, hB, -⟩ := behaviour_of_exec he hd
  obtain ⟨-, hr⟩ | ⟨⟨-, -, -, -, -, hyes, -⟩, -⟩ := hB.failsAs
  · refine ⟨fun h => hr (.inl h), ?_⟩
    rintro q rfl
    obtain h | rfl := hB.accessFailed_cases
    · exact h
    · exact absurd (.inr rfl) hr
  · simp [hcan] at hyes

/-! ## Responses (R99, R270, R271) -/

/-- The shape of the response `resp` to the request `i`. -/
def HasShape (i : Instr) (resp : Response) : Prop :=
  (resp.reason.isSome = true ↔ resp.code = .failure) ∧ resp.reason ≠ some .length ∧
  (resp.reason = some .maxRetries ∨ resp.reason = some .timeout → ∃ p, i = .send p) ∧
  (resp.code = .validationError → ∃ c p, i = .configure c p) ∧
  (resp.found = true → i = .receive ∧ resp.code = .ok ∧ resp.data.length = 32) ∧
  (resp.found = false → resp.data = [])

theorem hasShape_ok (i : Instr) : HasShape i .ok := by simp [HasShape, Response.ok]

theorem hasShape_notReady (i : Instr) : HasShape i .notReady := by simp [HasShape, Response.notReady]

theorem hasShape_validationError (c p : Int) : HasShape (.configure c p) .validationError := by
  simp [HasShape, Response.validationError]

theorem hasShape_transport (i : Instr) : HasShape i (.failure .transport) := by simp [HasShape, Response.failure]

theorem hasShape_send_failure (p : Bytes) {q : Reason} (h : q ≠ .length) : HasShape (.send p) (.failure q) := by
  simp [HasShape, Response.failure, h]

theorem hasShape_received {d : Option Bytes} (h : ∀ data, d = some data → data.length = 32) :
    HasShape .receive (.received d) := by
  cases d with
  | none => exact hasShape_ok _
  | some data => simp [HasShape, Response.received, h data rfl]

theorem ApplyRun.result_cases {pr : Params} {c p : Int} {es : List Event} {x : Except Reason Unit}
    (h : ApplyRun pr c p es x) : x = .ok () ∨ x = .error .transport := by
  cases h <;> simp

theorem PollRun.ne_length {pr : Params} {n : Nat} {es : List Event} {x : Except Reason Unit} (h : PollRun pr n es x) :
    x ≠ .error .length := by
  cases h with
  | flagged us v => obtain h | h := pollResult_cases v <;> simp [h]
  | timeout | badPoll | badClear => simp

theorem ReceiveRun.found_length {pr : Params} {es : List Event} {data : Bytes} (h : ReceiveRun pr es (.ok (some data))) :
    data.length = 32 := by
  cases h with
  | found v d2 d3 hv h2 h3 => simp [h3]

theorem ReceiveRun.error_eq {pr : Params} {es : List Event} {q : Reason} (h : ReceiveRun pr es (.error q)) :
    q = .transport := by
  cases h <;> rfl

/-- Settles O51. -/
theorem responsesHaveTheirShape : Obligations.ResponsesHaveTheirShape := by
  intro s t i es r hi he hd
  obtain ⟨rd, ce, csn, hB, -⟩ := behaviour_of_exec he hd
  suffices ∃ resp, r = .response resp ∧ HasShape i resp from this
  cases hB with
  | badLength _ hn | accessOk _ hn | accessBad _ hn => simp [hn] at hi
  | initOk => exact ⟨_, rfl, hasShape_ok _⟩
  | configureCached => exact ⟨_, rfl, hasShape_ok _⟩
  | startReceiveOk => exact ⟨_, rfl, hasShape_ok _⟩
  | initBad | sendEnterBad | sendLaunchBad | startReceiveBad => exact ⟨_, rfl, hasShape_transport _⟩
  | configureInvalid => exact ⟨_, rfl, hasShape_validationError _ _⟩
  | notReady => exact ⟨_, rfl, hasShape_notReady _⟩
  | configureApplied c p es x hv hr hA =>
    obtain rfl | rfl := hA.result_cases
    · exact ⟨_, rfl, hasShape_ok _⟩
    · exact ⟨_, rfl, hasShape_transport _⟩
  | sendPolled p d es fs x hr hd hL hP =>
    refine ⟨_, rfl, ?_⟩
    cases x with
    | ok => exact hasShape_ok _
    | error q => exact hasShape_send_failure p fun hq => hP.ne_length (congrArg _ hq)
  | receiveOk es d hr hR => exact ⟨_, rfl, hasShape_received fun data hd => (hd ▸ hR).found_length⟩
  | receiveBad es q hr hR => exact ⟨_, rfl, hR.error_eq ▸ hasShape_transport _⟩

/-! ## Bounds and waits (R190, R191, R239, R313) -/

theorem ApplyRun.counts {pr : Params} {c p : Int} {es : List Event} {x : Except Reason Unit} (h : ApplyRun pr c p es x) :
    es.length ≤ 9 ∧ waitSum es = 0 := by
  cases h <;> simp

theorem ReceiveRun.counts {pr : Params} {es : List Event} {x : Except Reason (Option Bytes)} (h : ReceiveRun pr es x) :
    es.length ≤ 9 ∧ waitSum es = 0 := by
  cases h <;> simp

theorem LaunchRun.sent_counts {pr : Params} {q : Bytes} {es : List Event} (h : LaunchRun pr q es true) :
    es.length = 9 ∧ waitSum es = 1 ∧ es.countP Event.isPoll = 0 := by
  cases h with
  | sent d1 d2 h1 h2 => simp [waitSum, frameEvents, Event.isPoll]

theorem LaunchRun.failed_counts {pr : Params} {q : Bytes} {es : List Event} (h : LaunchRun pr q es false) :
    es.length ≤ 6 ∧ waitSum es = 0 ∧ es.countP Event.isPoll = 0 := by
  cases h <;> simp [frameEvents, Event.isPoll, waitSum]

@[simp] theorem countP_isPoll_frameEvents (out : Bytes) (a : Answer) :
    (frameEvents out a).countP Event.isPoll = if out = [0xFF] then 1 else 0 := by
  simp [frameEvents, Event.isPoll, List.countP_cons]

/-- What a poll loop of `n` polls that returned `x` counts: events, milliseconds waited, polls made. -/
structure PollCounts (n : Nat) (es : List Event) (x : Except Reason Unit) : Prop where
  events    : es.length ≤ 4 * n ∨ (es.length = 4 * n + 2 ∧ es.countP Event.isPoll = n)
  polls     : es.countP Event.isPoll ≤ n
  ended     : x = .ok () ∨ x = .error .maxRetries → es.countP Event.isPoll = waitSum es + 1
  timedOut  : x = .error .timeout → es.length = 4 * n ∧ waitSum es = n ∧ es.countP Event.isPoll = n
  broken    : x = .error .transport → waitSum es < n

theorem PollRun.counts {pr : Params} {n : Nat} {es : List Event} {x : Except Reason Unit} (h : PollRun pr n es x) :
    PollCounts n es x := by
  cases h with
  | flagged us v data hu hn hv hl =>
    have hx : pollResult v ≠ .error .timeout ∧ pollResult v ≠ .error .transport := by
      obtain h | h := pollResult_cases v <;> simp [h]
    constructor
    · simp [countP_isPoll_pollEvents]; omega
    · simp [countP_isPoll_pollEvents]; omega
    · simp [countP_isPoll_pollEvents]
    · simp [hx]
    · simp [hx]
  | timeout us hu hn => constructor <;> simp [countP_isPoll_pollEvents, hn]
  | badPoll us bad hu hn hb =>
    constructor
    · simp; omega
    · simp [countP_isPoll_pollEvents]; omega
    · simp
    · simp
    · simpa using hn
  | badClear us v bad hu hn hv hb =>
    constructor
    · simp [countP_isPoll_pollEvents]; omega
    · simp [countP_isPoll_pollEvents]; omega
    · simp
    · simp
    · simpa using hn

/-! ## The traces of whole instructions -/

theorem three_le_eventBound (i : Instr) : 3 ≤ eventBound i := by
  cases i <;> simp [eventBound]

theorem initFrames_length (s : State) : (initFrames s).length = 12 := rfl

theorem Behaviour.length_le {s : State} {i : Instr} {es : List Event} {r : Result} {rd : RadioState} {ce csn : LineLevel}
    (h : Behaviour s i es r rd ce csn) : es.length ≤ eventBound i := by
  cases h with
  | badLength | configureInvalid | configureCached | notReady => simp
  | accessOk | accessBad => simpa using three_le_eventBound i
  | initOk as hS => simp [initSetupEvents, framesEvents_length hS, initFrames_length, eventBound]
  | initBad before after out oks bad ho hS hb =>
    have hlen : before.length + (after.length + 1) = 12 := by simpa [initFrames_length] using (congrArg List.length ho).symm
    simp [initSetupEvents, framesEvents_length hS, eventBound]
    omega
  | configureApplied c p es x hv hr hA => exact hA.counts.1
  | receiveOk es d hr hR => exact hR.counts.1
  | receiveBad es q hr hR => exact hR.counts.1
  | sendEnterBad | startReceiveOk | startReceiveBad => simp [eventBound]
  | sendLaunchBad p d es hr hd hL =>
    have := hL.failed_counts.1
    simp [eventBound]
    omega
  | sendPolled p d es fs x hr hd hL hP =>
    have hes := hL.sent_counts.1
    have hfs := hP.counts.events
    simp [eventBound, hes]
    unfold pollLimit at hfs
    omega

/-- What a SEND that was not refused counts: nothing but its entry's four events, or a run that began its payload part. -/
structure SendCounts (es : List Event) (r : Result) : Prop where
  events   : es.length ≤ 5 + 4009 ∨ (es.length = 5 + 4011 ∧ es.countP Event.isPoll = 1000)
  timedOut : r = .response (.failure .timeout) →
    es.length = 5 + 4009 ∧ waitSum es = 1003 ∧ es.countP Event.isPoll = 1000
  ended    : r = .response .ok ∨ r = .response (.failure .maxRetries) → waitSum es = 2 + es.countP Event.isPoll
  entry    : r = .response (.failure .transport) → es.length ≤ 4 → waitSum es = 0
  later    : r = .response (.failure .transport) → 4 < es.length → 2 ≤ waitSum es ∧ waitSum es ≤ 1002
  polls    : es.countP Event.isPoll ≤ 1000

theorem respond_eq_ok {x : Except Reason Unit} : respond x = .ok ↔ x = .ok () := by
  cases x <;> simp [respond, respond_failure_ne_ok]

theorem respond_eq_failure {x : Except Reason Unit} {q : Reason} : respond x = .failure q ↔ x = .error q := by
  cases x <;> simp [respond, Response.failure, Response.ok]

theorem Behaviour.sendCounts {s : State} {p : Bytes} {es : List Event} {r : Result} {rd : RadioState} {ce csn : LineLevel}
    (h : Behaviour s (.send p) es r rd ce csn) : SendCounts es r := by
  cases h with
  | badLength _ hn | accessOk _ hn | accessBad _ hn => cases hn
  | notReady => constructor <;> simp [Response.notReady, Response.failure, Response.ok]
  | sendEnterBad => constructor <;> simp [Response.failure, Response.ok, Event.isPoll, waitSum]
  | sendLaunchBad _ d es hr hd hL =>
    obtain ⟨hlen, hwait, hpoll⟩ := hL.failed_counts
    constructor
    · simp; omega
    · simp [Response.failure]
    · simp [Response.failure, Response.ok]
    · simp; omega
    · simp [hwait, waitSum]
    · simp [hpoll, Event.isPoll]
  | sendPolled _ d es fs x hr hd hL hP =>
    obtain ⟨hlen, hwait, hpoll⟩ := hL.sent_counts
    obtain ⟨hevents, hpolls, hended, htimed, hbroken⟩ := hP.counts
    unfold pollLimit at *
    have hwait' : waitSum ([.line .ce .low] ++ frameEvents [0x20, 0x0A] (.ok d) ++ [.wait 2] ++ (es ++ fs)) =
        3 + waitSum fs := by simp [hwait, waitSum]; omega
    have hpoll' : List.countP Event.isPoll ([.line .ce .low] ++ frameEvents [0x20, 0x0A] (.ok d) ++ [.wait 2] ++ (es ++ fs)) =
        fs.countP Event.isPoll := by simp [hpoll, Event.isPoll]
    have hlen' : ([.line .ce .low] ++ frameEvents [0x20, 0x0A] (.ok d) ++ [.wait 2] ++ (es ++ fs) : List Event).length =
        14 + fs.length := by simp [hlen]; omega
    constructor <;> simp only [hwait', hpoll', hlen', Result.response.injEq, respond_eq_ok, respond_eq_failure]
    · omega
    · intro hx
      have := htimed hx
      omega
    · intro hx
      have := hended hx
      omega
    · omega
    · intro hx _
      have := hbroken hx
      omega
    · exact hpolls

/-- Settles O59. -/
theorem waitsSumToTheTable : Obligations.WaitsSumToTheTable := by
  intro s t i es r he hd
  obtain ⟨rd, ce, csn, hB, -⟩ := behaviour_of_exec he hd
  refine ⟨?_, ?_, ?_, ?_⟩
  · rintro rfl
    cases hB with
    | badLength _ hn | accessOk _ hn | accessBad _ hn => cases hn
    | notReady _ hi => simp at hi
    | initOk as hS => simp [initSetupEvents, waitSum, waitSum_framesEvents hS]
    | initBad before after out oks bad ho hS hb => simp [initSetupEvents, waitSum, waitSum_framesEvents hS]
  · rintro (⟨c, p, rfl⟩ | rfl)
    · cases hB with
      | badLength _ hn | accessOk _ hn | accessBad _ hn => cases hn
      | configureInvalid | configureCached | notReady => rfl
      | configureApplied _ _ _ _ _ _ hA => exact hA.counts.2
    · cases hB with
      | badLength _ hn | accessOk _ hn | accessBad _ hn => cases hn
      | notReady => rfl
      | receiveOk _ _ _ hR => exact hR.counts.2
      | receiveBad _ _ _ hR => exact hR.counts.2
  · rintro rfl
    cases hB with
    | badLength _ hn | accessOk _ hn | accessBad _ hn => cases hn
    | notReady => simp [notReady_ne_ok, waitSum]
    | startReceiveOk => simp [waitSum]
    | startReceiveBad => simp [respond_failure_ne_ok, waitSum]
  · rintro p rfl
    have hC := hB.sendCounts
    exact ⟨hC.ended, fun hr => (hC.timedOut hr).2, fun hr => ⟨hC.entry hr, hC.later hr⟩⟩

/-- A block in which a SEND sees its first flag at the last of `us.length + 1` polls. -/
def flaggedAfter (p : Params) (us : List Byte) : State :=
  { State.construct p with
    radio := .standby
    answers := .ok [0, 0] :: .ok [0] :: .ok (List.replicate 33 0) :: (pollAnswers us ++ .ok [0x20] :: .ok [0, 0] :: []) }

/-- A SEND flagged after `us.length` unflagged polls emits 4 events for each of them and 20 more (R190). -/
theorem flaggedAfter_runs (p : Params) {us : List Byte} (hu : Unflagged us) (hn : us.length < 1000) :
    ∃ t es r, exec (.send []) (flaggedAfter p us) = .next t ∧ Did (flaggedAfter p us) es r t ∧
      es.length = 20 + 4 * us.length := by
  have hrun := sendEndsAtItsFirstFlaggedPoll (flaggedAfter p us) [] (.ok [0, 0]) (.ok [0]) (.ok (List.replicate 33 0))
    (.ok [0, 0]) us 0x20 [] (by simp [flaggedAfter]) hu hn (by decide) rfl ⟨_, rfl, rfl⟩ ⟨_, rfl, rfl⟩
    ⟨_, rfl, by simp⟩ ⟨_, rfl, rfl⟩
  obtain ⟨-, -, es, r, hd⟩ := exec_hands_over hrun
  refine ⟨_, es, r, hrun, hd, ?_⟩
  have hlen := congrArg List.length hd.trace
  simp [flaggedAfter, State.construct] at hlen
  omega

/-- Settles O52: a SEND flagged at its 1000th poll is the longest run. -/
theorem everyInstructionEndsWithinItsBound : Obligations.EveryInstructionEndsWithinItsBound := by
  refine ⟨fun s i => ?_, fun s t p es r he hd => ?_, ?_⟩
  · obtain ⟨es, r, rd, ce, csn, hB, he⟩ := exec_behaviour i s
    exact ⟨_, es, r, he, ⟨rfl, rfl⟩, hB.length_le⟩
  · obtain ⟨rd, ce, csn, hB, -⟩ := behaviour_of_exec he hd
    exact ⟨hB.sendCounts.events, fun hr => (hB.sendCounts.timedOut hr).1⟩
  · have hu : Unflagged (List.replicate 999 0) := by
      intro v hv
      rw [List.eq_of_mem_replicate hv]
      decide
    obtain ⟨t, es, r, he, hd, hlen⟩ := flaggedAfter_runs default hu (by rw [List.length_replicate]; decide)
    exact ⟨_, t, [], es, r, he, hd, by rw [hlen, List.length_replicate]⟩

end Sys2Proof.Machine
end

section
/-! PROOFS. The checks every trace of a request passes (spec/30_encoding.md R100, spec/41_mode_controller.md R165,
spec/70_reset_and_hazards.md R303 to R307, R310), and the exact recognition of an instruction's traces. -/

namespace Sys2Proof.Machine

/-! ## The frames of a trace -/

/-- Every frame of the trace is one of `P`. -/
def EveryFrame (P : Bytes → Prop) (es : List Event) : Prop := ∀ out a, .xfer out a ∈ es → P out

section
variable {P : Bytes → Prop}

@[simp] theorem everyFrame_nil : EveryFrame P [] := by simp [EveryFrame]

@[simp] theorem everyFrame_line_cons (l : Line) (v : Level) (es : List Event) :
    EveryFrame P (.line l v :: es) ↔ EveryFrame P es := by simp [EveryFrame]

@[simp] theorem everyFrame_wait_cons (ms : Nat) (es : List Event) : EveryFrame P (.wait ms :: es) ↔ EveryFrame P es := by
  simp [EveryFrame]

theorem EveryFrame.append {es fs : List Event} (h : EveryFrame P es) (k : EveryFrame P fs) : EveryFrame P (es ++ fs) :=
  fun out a hm => (List.mem_append.1 hm).elim (h out a) (k out a)

theorem EveryFrame.frame {out : Bytes} (h : P out) (a : Answer) : EveryFrame P (frameEvents out a) := by
  simp [EveryFrame, frameEvents, h]

theorem EveryFrame.frames {outs : List Bytes} {as : List Answer} (hS : AllServe outs as) (h : ∀ out ∈ outs, P out) :
    EveryFrame P (framesEvents outs as) := by
  induction hS with
  | nil => simp
  | cons _ _ ih =>
    rw [List.forall_mem_cons] at h
    exact (EveryFrame.frame h.1 _).append (ih h.2)

theorem EveryFrame.polls (h : P [0xFF]) (us : List Byte) : EveryFrame P (pollEvents us) := by
  induction us with
  | nil => simp
  | cons v us ih => exact ((EveryFrame.frame h _).append (by simp)).append ih

theorem EveryFrame.mono {Q : Bytes → Prop} {es : List Event} (h : EveryFrame P es) (hPQ : ∀ out, P out → Q out) :
    EveryFrame Q es := fun out a hm => hPQ out (h out a hm)

end

/-- The frames a request other than INIT sends, `d` being DUMMY_BYTE (R162, R163, R190, R192, R231). -/
inductive RequestFrame (d : Byte) : Bytes → Prop where
  | powerUp (v : Byte) (hv : v &&& 0x02 ≠ 0) : RequestFrame d [0x20, v]
  | channel (v : Byte) : RequestFrame d [0x25, v]
  | readSetup : RequestFrame d [0x06, d]
  | setup (v : Byte) : RequestFrame d [0x26, v]
  | clear (v : Byte) (hv : v ≠ 0x70) : RequestFrame d [0x27, v]
  | status : RequestFrame d [0xFF]
  | flushTx : RequestFrame d [0xE1]
  | writePayload (q : Bytes) (hq : q.length = 32) : RequestFrame d (0xA0 :: q)
  | readPayload : RequestFrame d (0x61 :: List.replicate 32 d)

/-- A flagged poll clears at most TX_DS and MAX_RT, and so never all three flags. -/
theorem txFlags_ne_allFlags (v : Byte) : v &&& 0x30 ≠ 0x70 := by
  revert v
  decide

section
variable {pr : Params} {es : List Event}

theorem ApplyRun.everyFrame {c p : Int} {x : Except Reason Unit} (h : ApplyRun pr c p es x) :
    EveryFrame (RequestFrame pr.dummyByte) es := by
  cases h with
  | badChannel bad => exact .frame (.channel _) bad
  | badRead d1 bad => exact .append (.frame (.channel _) _) (.frame .readSetup bad)
  | badSetup d1 st v bad => exact .append (.append (.frame (.channel _) _) (.frame .readSetup _)) (.frame (.setup _) bad)
  | done d1 d3 st v => exact .append (.append (.frame (.channel _) _) (.frame .readSetup _)) (.frame (.setup _) _)

theorem ReceiveRun.everyFrame {x : Except Reason (Option Bytes)} (h : ReceiveRun pr es x) :
    EveryFrame (RequestFrame pr.dummyByte) es := by
  have hclear : RequestFrame pr.dummyByte [0x27, 0x40] := .clear _ (by decide)
  cases h with
  | badStatus bad => exact .frame .status bad
  | nothing v => exact .frame .status _
  | badClear v bad => exact .append (.frame .status _) (.frame hclear bad)
  | badPayload v d2 bad => exact .append (.append (.frame .status _) (.frame hclear _)) (.frame .readPayload bad)
  | found v d2 d3 => exact .append (.append (.frame .status _) (.frame hclear _)) (.frame .readPayload _)

theorem LaunchRun.everyFrame {p : Bytes} {sent : Bool} (h : LaunchRun pr (wire32 p) es sent) (d : Byte) :
    EveryFrame (RequestFrame d) es := by
  have hpay : RequestFrame d (0xA0 :: wire32 p) := .writePayload _ (wire32_length p)
  cases h with
  | badFlush bad => exact .frame .flushTx bad
  | badPayload d1 bad => exact .append (.frame .flushTx _) (.frame hpay bad)
  | sent d1 d2 => exact .append (.append (.frame .flushTx _) (.frame hpay _)) (by simp)

theorem PollRun.everyFrame {n : Nat} {x : Except Reason Unit} (h : PollRun pr n es x) (d : Byte) :
    EveryFrame (RequestFrame d) es := by
  have hpolls := EveryFrame.polls (P := RequestFrame d) .status
  have hclear : ∀ v : Byte, RequestFrame d [0x27, v &&& 0x30] := fun v => .clear _ (txFlags_ne_allFlags v)
  cases h with
  | timeout us => exact hpolls us
  | badPoll us bad => exact .append (hpolls us) (.frame .status bad)
  | badClear us v bad => exact .append (.append (hpolls us) (.frame .status _)) (.frame (hclear v) bad)
  | flagged us v data => exact .append (.append (hpolls us) (.frame .status _)) (.frame (hclear v) _)

end

/-- A request other than INIT sends only these frames. -/
theorem Behaviour.everyFrame {s : State} {i : Instr} {es : List Event} {r : Result} {rd : RadioState} {ce csn : LineLevel}
    (h : Behaviour s i es r rd ce csn) (hi : i.isRequest = true) (hn : i ≠ .init) :
    EveryFrame (RequestFrame s.params.dummyByte) es := by
  have henter : ∀ (v : Byte) (a : Answer), v &&& 0x02 ≠ 0 →
      EveryFrame (RequestFrame s.params.dummyByte) ([.line .ce .low] ++ frameEvents [0x20, v] a) :=
    fun v a hv => .append (by simp) (.frame (.powerUp v hv) a)
  cases h with
  | badLength _ hb | accessOk _ hb | accessBad _ hb => simp [hb] at hi
  | initOk | initBad => exact absurd rfl hn
  | configureInvalid | configureCached | notReady => exact everyFrame_nil
  | configureApplied c p es x hv hr hA => exact hA.everyFrame
  | receiveOk es d hr hR => exact hR.everyFrame
  | receiveBad es q hr hR => exact hR.everyFrame
  | sendEnterBad p bad => exact henter 0x0A bad (by decide)
  | startReceiveBad bad => exact henter 0x0B bad (by decide)
  | startReceiveOk d => exact .append (henter 0x0B _ (by decide)) (by simp)
  | sendLaunchBad p d es hr hd hL => exact .append (.append (henter 0x0A _ (by decide)) (by simp)) (hL.everyFrame _)
  | sendPolled p d es fs x hr hd hL hP =>
    exact .append (.append (henter 0x0A _ (by decide)) (by simp)) (.append (hL.everyFrame _) (hP.everyFrame _))

/-! ## Frames of the block (R100), and INIT's own (R303) -/

theorem all_known_of_everyFrame {d : Byte} {es : List Event} (h : EveryFrame (fun out => (frameKind d out).isSome = true) es) :
    es.all (Event.known d) = true := by
  rw [List.all_eq_true]
  intro e he
  cases e with
  | line | wait => rfl
  | xfer out a => exact h out a he

theorem all_notInits_of_everyFrame {es : List Event} (h : EveryFrame (fun out => initOnly out = false) es) :
    es.all Event.notInits = true := by
  rw [List.all_eq_true]
  intro e he
  cases e with
  | line | wait => rfl
  | xfer out a => simp [Event.notInits, h out a he]

/-- A write of a register of the map at its width is a frame of the block. -/
theorem frameKind_write (d : Byte) (r : Reg) {data : Bytes} (h : data.length = r.width) :
    (frameKind d ((0x20 ||| r.addr) :: data)).isSome = true := by
  have e : frameKind d ((0x20 ||| r.addr) :: data) = some (.regWrite r data) := by
    cases r <;> exact if_pos h
  rw [e]
  rfl

theorem RequestFrame.known {d : Byte} {out : Bytes} (h : RequestFrame d out) : (frameKind d out).isSome = true := by
  cases h with
  | powerUp v => exact frameKind_write d .config rfl
  | channel v => exact frameKind_write d .rfCh rfl
  | setup v => exact frameKind_write d .rfSetup rfl
  | clear v => exact frameKind_write d .status rfl
  | status | flushTx => rfl
  | readSetup =>
    have e : frameKind d [0x06, d] = some (.regRead .rfSetup) := if_pos (by simp [dummies, Reg.blockReads, Reg.width])
    rw [e]
    rfl
  | writePayload q hq =>
    have e : frameKind d (0xA0 :: q) = some (.payloadWrite q) := if_pos hq
    rw [e]
    rfl
  | readPayload =>
    have e : frameKind d (0x61 :: List.replicate 32 d) = some .payloadRead := if_pos (by simp [dummies])
    rw [e]
    rfl

theorem initFrames_known (s : State) (d : Byte) : ∀ out ∈ initFrames s, (frameKind d out).isSome = true := by
  simp only [initFrames, List.forall_mem_cons]
  exact ⟨frameKind_write d .config rfl, frameKind_write d .setupAw rfl, frameKind_write d .rfCh rfl,
    frameKind_write d .rfSetup rfl, frameKind_write d .txAddr (by simp [Reg.width]), frameKind_write d .rxAddrP0 (by simp [Reg.width]),
    frameKind_write d .enAa rfl, frameKind_write d .enRxaddr rfl, frameKind_write d .rxPwP0 rfl,
    frameKind_write d .status rfl, rfl, rfl, by simp⟩

theorem RequestFrame.not_initOnly {d : Byte} {out : Bytes} (h : RequestFrame d out) : initOnly out = false := by
  cases h with
  | powerUp v hv => simpa [initOnly, flagSet, pwrUp] using hv
  | clear v hv => simpa [initOnly] using hv
  | channel | setup | readSetup | status | flushTx | writePayload | readPayload => rfl

/-! ## The mandatory waits (R165, R303 to R306) -/

theorem asksNoWait_of_command {c : Byte} {data : Bytes} (h1 : c ≠ 0x20) (h2 : c ≠ 0xFF) : asksNoWait (c :: data) :=
  ⟨fun _ hv => absurd (List.cons.inj hv).1 h1, fun hv => h2 (List.cons.inj hv).1⟩

theorem waitsKept_lastFrame {out : Bytes} {a : Answer} (h : asksNoWait out) : waitsKept (frameEvents out a) = true := by
  rw [← List.append_nil (frameEvents out a), waitsKept_frame h]
  rfl

theorem waitsKept_ceLow {es : List Event} (h : ∀ rest, es ≠ .line .csn .high :: rest) :
    waitsKept (.line .ce .low :: es) = waitsKept es := by
  rw [waitsKept]
  unfold waitsKeptHere
  split <;> simp_all

theorem waitsKept_ceHigh_wait (es : List Event) : waitsKept (.line .ce .high :: .wait 1 :: es) = waitsKept es := by
  simp [waitsKept, waitsKeptHere, waitsNext, cePulseMs]

theorem waitsKept_frames {outs : List Bytes} {as : List Answer} {es : List Event} (hS : AllServe outs as)
    (h : ∀ out ∈ outs, asksNoWait out) : waitsKept (framesEvents outs as ++ es) = waitsKept es := by
  induction hS with
  | nil => rfl
  | cons _ _ ih =>
    rw [List.forall_mem_cons] at h
    rw [framesEvents_cons, List.append_assoc, waitsKept_frame h.1, ih h.2]

theorem initFrames_askNoWait (s : State) : ∀ out ∈ initFrames s, asksNoWait out := by
  have hconfig : asksNoWait [0x20, 0x08] := ⟨by rintro v ⟨⟩; decide, by decide⟩
  rw [initFrames, List.forall_mem_cons]
  exact ⟨hconfig, by simp [asksNoWait_of_command]⟩

theorem waitsKept_initSetup (es : List Event) : waitsKept (initSetupEvents ++ es) = waitsKept es := by
  simp [initSetupEvents, waitsKept, waitsKeptHere, waitsNext, startupMs]

theorem ApplyRun.waitsKept {pr : Params} {c p : Int} {es : List Event} {x : Except Reason Unit} (h : ApplyRun pr c p es x) :
    waitsKept es = true := by
  cases h <;> simp [waitsKept_frame, waitsKept_lastFrame, asksNoWait_of_command]

/-- A poll that another kind of frame follows. -/
theorem waitsKept_poll_frame {a b : Answer} {out : Bytes} {es : List Event} (h : out ≠ [0xFF]) :
    waitsKept (frameEvents [0xFF] a ++ (frameEvents out b ++ es)) = waitsKept (frameEvents out b ++ es) :=
  waitsKept_poll (by simpa [frameEvents] using h) (by simp [frameEvents])

theorem waitsKept_lastPoll (a : Answer) : waitsKept (frameEvents [0xFF] a) = true := by
  rw [← List.append_nil (frameEvents [0xFF] a), waitsKept_poll (by simp) (by simp)]
  rfl

/-- A poll and the clear after it. -/
theorem waitsKept_poll_clear (a b : Answer) (v : Byte) :
    waitsKept (frameEvents [0xFF] a ++ frameEvents [0x27, v] b) = true := by
  rw [← List.append_nil (frameEvents [0x27, v] b), waitsKept_poll_frame (by simp), List.append_nil]
  exact waitsKept_lastFrame (asksNoWait_of_command (by decide) (by decide))

theorem ReceiveRun.waitsKept {pr : Params} {es : List Event} {x : Except Reason (Option Bytes)} (h : ReceiveRun pr es x) :
    waitsKept es = true := by
  have hclear : asksNoWait [0x27, 0x40] := asksNoWait_of_command (by decide) (by decide)
  have hread : asksNoWait (0x61 :: List.replicate 32 pr.dummyByte) := asksNoWait_of_command (by decide) (by decide)
  cases h with
  | nothing | badStatus => exact waitsKept_lastPoll _
  | badClear => exact waitsKept_poll_clear _ _ _
  | found | badPayload =>
    rw [List.append_assoc, waitsKept_poll_frame (by decide), waitsKept_frame hclear]
    exact waitsKept_lastFrame hread

theorem PollRun.waitsKept {pr : Params} {n : Nat} {es : List Event} {x : Except Reason Unit} (h : PollRun pr n es x) :
    waitsKept es = true := by
  cases h with
  | timeout us => simpa using waitsKept_pollEvents us (es := []) rfl
  | badPoll us bad => exact waitsKept_pollEvents us (waitsKept_lastPoll bad)
  | flagged us | badClear us =>
    rw [List.append_assoc]
    exact waitsKept_pollEvents us (waitsKept_poll_clear _ _ _)

/-- The poll loop does not begin with CSN High. -/
theorem PollRun.head_ne {pr : Params} {n : Nat} {es : List Event} {x : Except Reason Unit} (h : PollRun pr n es x)
    (rest : List Event) : es ≠ .line .csn .high :: rest := by
  have hpolls : ∀ (us : List Byte) {fs : List Event}, (∀ rest, fs ≠ .line .csn .high :: rest) →
      pollEvents us ++ fs ≠ .line .csn .high :: rest := by
    intro us fs hfs
    cases us with
    | nil => exact hfs rest
    | cons v us => simp [pollEvents_cons, frameEvents]
  cases h with
  | timeout us => simpa using hpolls us (fs := []) (by simp)
  | badPoll us bad => exact hpolls us (by simp [frameEvents])
  | flagged us | badClear us =>
    rw [List.append_assoc]
    exact hpolls us (by simp [frameEvents])

theorem LaunchRun.waitsKept_append {pr : Params} {p : Bytes} {es fs : List Event} (h : LaunchRun pr p es true)
    (hfs : ∀ rest, fs ≠ .line .csn .high :: rest) : waitsKept (es ++ fs) = waitsKept fs := by
  cases h with
  | sent =>
    simp only [List.append_assoc, List.cons_append, List.nil_append]
    rw [waitsKept_frame (asksNoWait_of_command (by decide) (by decide)),
      waitsKept_frame (asksNoWait_of_command (by decide) (by decide)), waitsKept_ceHigh_wait, waitsKept_ceLow hfs]

theorem LaunchRun.waitsKept {pr : Params} {p : Bytes} {es : List Event} (h : LaunchRun pr p es false) :
    waitsKept es = true := by
  cases h <;> simp [waitsKept_frame, waitsKept_lastFrame, asksNoWait_of_command]

/-- A mode entry whose CONFIG frame was answered waits for 2 ms (R162, R163). -/
theorem waitsKept_entered (v : Byte) (a : Answer) (es : List Event) :
    waitsKept ([.line .ce .low] ++ frameEvents [0x20, v] a ++ [.wait 2] ++ es) = waitsKept es := by
  simp only [List.append_assoc, List.cons_append, List.nil_append]
  rw [waitsKept_ceLow (by simp [frameEvents]), waitsKept_config (.inr rfl), waitsKept_wait]

/-- A mode entry whose CONFIG frame broke ends there. -/
theorem waitsKept_enterBroken {pr : Params} {v : Byte} {bad : Answer} (hb : bad.breaks pr [0x20, v]) :
    waitsKept ([.line .ce .low] ++ frameEvents [0x20, v] bad) = true := by
  have hne : ∀ x y, bad ≠ .ok [x, y] := by
    rintro x y rfl
    simp [Answer.breaks] at hb
  rw [List.singleton_append, waitsKept_ceLow (by simp [frameEvents]), ← List.append_nil (frameEvents [0x20, v] bad),
    waitsKept_config (.inl hne)]
  rfl

theorem Behaviour.waitsKept {s : State} {i : Instr} {es : List Event} {r : Result} {rd : RadioState} {ce csn : LineLevel}
    (h : Behaviour s i es r rd ce csn) (hi : i.isRequest = true) : waitsKept es = true := by
  cases h with
  | badLength _ hb | accessOk _ hb | accessBad _ hb => simp [hb] at hi
  | configureInvalid | configureCached | notReady => rfl
  | initOk as hS =>
    rw [waitsKept_initSetup, ← List.append_nil (framesEvents _ _), waitsKept_frames hS (initFrames_askNoWait s)]
    rfl
  | initBad before after out oks bad ho hS hb =>
    have hall : ∀ o ∈ before ++ out :: after, asksNoWait o := ho ▸ initFrames_askNoWait s
    rw [waitsKept_initSetup, waitsKept_frames hS fun o hm => hall o (by simp [hm])]
    exact waitsKept_lastFrame (hall out (by simp))
  | configureApplied c p es x hv hr hA => exact hA.waitsKept
  | receiveOk es d hr hR => exact hR.waitsKept
  | receiveBad es q hr hR => exact hR.waitsKept
  | sendEnterBad p bad hr hb | startReceiveBad bad hr hb => exact waitsKept_enterBroken hb
  | startReceiveOk d => exact waitsKept_entered 0x0B (.ok d) [.line .ce .high]
  | sendLaunchBad p d es hr hd hL => rw [waitsKept_entered, hL.waitsKept]
  | sendPolled p d es fs x hr hd hL hP => rw [waitsKept_entered, hL.waitsKept_append hP.head_ne, hP.waitsKept]

/-! ## All checks -/

/-- INIT's trace begins with the line setup and the startup wait (R161). -/
theorem Behaviour.init_trace {s : State} {es : List Event} {r : Result} {rd : RadioState} {ce csn : LineLevel}
    (h : Behaviour s .init es r rd ce csn) :
    ∃ fs, es = initSetupEvents ++ fs ∧ EveryFrame (· ∈ initFrames s) fs := by
  cases h with
  | badLength _ hb | accessOk _ hb | accessBad _ hb => cases hb
  | notReady _ hi => simp at hi
  | initOk as hS => exact ⟨_, rfl, .frames hS fun _ h => h⟩
  | initBad before after out oks bad ho hS hb =>
    exact ⟨_, rfl, .append (.frames hS fun _ h => by simp [ho, h]) (.frame (by simp [ho]) bad)⟩

theorem Behaviour.polls_le {s : State} {i : Instr} {es : List Event} {r : Result} {rd : RadioState} {ce csn : LineLevel}
    (h : Behaviour s i es r rd ce csn) : es.countP Event.isPoll ≤ pollLimit := by
  by_cases hs : ∃ p, i = .send p
  · obtain ⟨p, rfl⟩ := hs
    exact h.sendCounts.polls
  · have hbound : eventBound i ≤ 1000 := by
      cases i with
      | send p => exact absurd ⟨p, rfl⟩ hs
      | _ => simp [eventBound]
    exact (List.countP_le_length.trans h.length_le).trans hbound

theorem Behaviour.traceOk {s : State} {i : Instr} {es : List Event} {r : Result} {rd : RadioState} {ce csn : LineLevel}
    (h : Behaviour s i es r rd ce csn) (hi : i.isRequest = true) : traceOk s.params.dummyByte es = true := by
  have hframes : es.all (Event.known s.params.dummyByte) = true ∧ startupKept es = true := by
    by_cases hn : i = .init
    · subst hn
      obtain ⟨fs, rfl, hfs⟩ := h.init_trace
      refine ⟨all_known_of_everyFrame ?_, ?_⟩
      · simpa [initSetupEvents] using hfs.mono fun out hm => initFrames_known s _ out hm
      · simp [startupKept, initSetupEvents, startupMs]
    · have hfs := h.everyFrame hi hn
      refine ⟨all_known_of_everyFrame (hfs.mono fun _ => RequestFrame.known), ?_⟩
      simp [startupKept, all_notInits_of_everyFrame (hfs.mono fun _ => RequestFrame.not_initOnly)]
  simp [Machine.traceOk, hframes, h.bracketed, h.waitsKept hi, h.polls_le]

/-! ## Exact recognition (R310) -/

/-- The wait that is shortened or left out is no exchange: the same answers are laid down. -/
theorem answersOf_wait (pre post : List Event) (n : Nat) : answersOf (pre ++ .wait n :: post) = answersOf (pre ++ post) := by
  simp [answersOf]

/-- What is run to recognise a trace with the answers of what the instruction emitted emits just that. -/
theorem emits_eq {s t : State} {i : Instr} {es seen : List Event} {r : Result} (he : exec i s = .next t)
    (hd : Did s es r t) (ha : answersOf seen = answersOf es) : s.emits i seen = tracesStandFor seen es := by
  obtain ⟨fs, u, hu, htr, hagain⟩ := exec_again i s
  obtain rfl := Host.Outcome.next.inj (he.symm.trans hu)
  obtain rfl : es = fs := List.append_cancel_left (hd.trace.symm.trans htr)
  obtain ⟨t', ht', htr'⟩ := hagain { s with trace := [], answers := answersOf seen }
    ⟨rfl, rfl, rfl, rfl, rfl, rfl, rfl, rfl, rfl⟩ ha
  simp only [State.emits, ht', htr', List.nil_append]

/-- Settles O53: each check of a trace, and recognition by running the instruction again with the trace's answers. -/
theorem requestsEmitTracesOfTheBlock : Obligations.RequestsEmitTracesOfTheBlock := by
  intro s t i es r he hd
  obtain ⟨rd, ce, csn, hB, -⟩ := behaviour_of_exec he hd
  refine ⟨hB.traceOk, (emits_eq he hd rfl).trans (tracesStandFor_self es), ?_⟩
  rintro pre n post rfl
  refine ⟨(emits_eq he hd (answersOf_wait pre post n).symm).trans (tracesStandFor_dropped pre post n), fun m hm => ?_⟩
  have ha : answersOf (pre ++ .wait m :: post) = answersOf (pre ++ .wait n :: post) := by
    rw [answersOf_wait, answersOf_wait]
  exact (emits_eq he hd ha).trans (tracesStandFor_shortened pre post hm)

end Sys2Proof.Machine
end

section
/-! PROOFS. History (spec/00_scope.md R11, spec/20_memory.md R71): no procedure reads what was emitted, handed over or is
presented, nor the sequencer. -/

namespace Sys2Proof.Machine

variable {α β γ δ : Type}

/-- The same block with another past, another program and another sequencer. -/
def State.withPast (s : State) (trace : List Event) (results : List Result) (port : Program) (seq : Seq) : State :=
  { s with trace := trace, results := results, port := port, seq := seq }

/-- What the block holds beside its past, its program and its sequencer. -/
def State.record (s : State) : State := s.withPast [] [] (.requests []) .idle

/-- The procedure or handler does from any past what it does from this one, and adds the same events to it. -/
def Oblivious (p : State → γ × State) : Prop :=
  ∀ s, ∃ es, (p s).2.trace = s.trace ++ es ∧
    ∀ tr rs port sq, ∃ sq', p (s.withPast tr rs port sq) = ((p s).1, (p s).2.withPast (tr ++ es) rs port sq')

/-- Reading the record, and updating it, is oblivious. -/
theorem Oblivious.update {g : State → γ} {f : State → State} (ht : ∀ s, (f s).trace = s.trace)
    (h : ∀ (s : State) tr rs port sq,
      (g (s.withPast tr rs port sq), f (s.withPast tr rs port sq)) = (g s, (f s).withPast tr rs port sq)) :
    Oblivious fun s => (g s, f s) := fun s =>
  ⟨[], by simp [ht], fun tr rs port sq => ⟨sq, by simpa using h s tr rs port sq⟩⟩

theorem Oblivious.record : Oblivious fun s => (s.record, s) := .update (fun _ => rfl) fun _ _ _ _ _ => rfl

theorem Oblivious.const (x : γ) : Oblivious fun s => (x, s) := .update (fun _ => rfl) fun _ _ _ _ _ => rfl

/-- One procedure after another: each result of the first has its own way to go on. -/
theorem Oblivious.andThen {p : State → γ × State} {h : State → δ × State} (hp : Oblivious p)
    (hh : ∀ x, ∃ k, Oblivious k ∧ ∀ s t, p s = (x, t) → h s = k t) : Oblivious h := by
  choose k hk heq using hh
  have e : ∀ s, h s = k (p s).1 (p s).2 := fun s => heq _ _ _ rfl
  intro s
  obtain ⟨es, ht, hs⟩ := hp s
  obtain ⟨fs, ht', ks⟩ := hk (p s).1 (p s).2
  refine ⟨es ++ fs, by rw [e, ht', ht, List.append_assoc], fun tr rs port sq => ?_⟩
  obtain ⟨sq1, h1⟩ := hs tr rs port sq
  obtain ⟨sq2, h2⟩ := ks (tr ++ es) rs port sq1
  exact ⟨sq2, by rw [e, e, h1, h2, List.append_assoc]⟩

theorem Oblivious.ret (a : α) : Oblivious (Proc.ret a) := .const _

theorem Oblivious.fail (r : Reason) : Oblivious (Proc.fail r : Proc α) := .const _

theorem Oblivious.bind {p : Proc α} {k : α → Proc β} (hp : Oblivious p) (hk : ∀ a, Oblivious (k a)) :
    Oblivious (Proc.bind p k) := by
  refine .andThen hp fun x => ?_
  cases x with
  | ok a => exact ⟨k a, hk a, fun _ _ => Proc.bind_of_ok⟩
  | error r => exact ⟨Proc.fail r, .fail r, fun _ _ => Proc.bind_of_error⟩

theorem Oblivious.seq : ∀ {ps : List (Proc Unit)}, (∀ p ∈ ps, Oblivious p) → Oblivious (Proc.seq ps)
  | [], _ => .ret ()
  | p :: _, h => .bind (h p (by simp)) fun _ => Oblivious.seq fun q hq => h q (by simp [hq])

theorem Oblivious.ite {c : Prop} [Decidable c] {p q : Proc α} (hp : Oblivious p) (hq : Oblivious q) :
    Oblivious (if c then p else q) := by
  split <;> assumption

/-- A procedure that checks its operands, which no state holds, before it goes on. -/
theorem Oblivious.check {c : Prop} [Decidable c] {r : Reason} {q : Proc α} (hq : Oblivious q) :
    Oblivious fun s => if c then Proc.fail r s else q s := by
  by_cases hc : c
  · simpa only [if_pos hc] using Oblivious.fail r
  · simpa only [if_neg hc] using hq

/-! ## The procedures -/

theorem Oblivious.setLine (l : Line) (v : Level) : Oblivious (setLine l v) := fun s =>
  ⟨[.line l v], by cases l <;> rfl, fun _ _ _ sq => ⟨sq.advance, by cases l <;> rfl⟩⟩

theorem Oblivious.wait (ms : Nat) : Oblivious (wait ms) := fun _ => ⟨[.wait ms], rfl, fun _ _ _ sq => ⟨sq.advance, rfl⟩⟩

theorem Oblivious.enterRadio (r : RadioState) : Oblivious (enterRadio r) :=
  .update (fun _ => rfl) fun _ _ _ _ _ => rfl

/-- A frame's answer depends on the answers laid down, the draws and the parameters. -/
theorem Oblivious.of_frame {p : Proc α} {f : Bytes → α} {out : Bytes} (h : ∀ s, p s = frameOutcome f out s) :
    Oblivious p := fun s =>
  ⟨frameEvents out (s.answerTo out), by rw [h]; rfl, fun _ _ _ sq => ⟨sq.advance.advance.advance, by rw [h, h]; rfl⟩⟩

theorem Oblivious.frameThen (out : Bytes) (f : Bytes → α) :
    Oblivious (Proc.bind (RA.frame out) fun data => Proc.ret (f data)) := .of_frame (frame_bind_run f out)

theorem Oblivious.write (a v : Byte) : Oblivious (RA.write a v) := .check (.frameThen _ _)

theorem Oblivious.writeMulti (a : Byte) (bs : Bytes) : Oblivious (RA.writeMulti a bs) := .check (.frameThen _ _)

theorem Oblivious.writePayload (q : Bytes) : Oblivious (RA.writePayload q) := .check (.frameThen _ _)

theorem Oblivious.flushTx : Oblivious RA.flushTx := .of_frame flushTx_run

theorem Oblivious.flushRx : Oblivious RA.flushRx := .of_frame flushRx_run

theorem Oblivious.status : Oblivious RA.status := .of_frame status_run

/-- A procedure that is, for every state with one record, the same oblivious one. -/
theorem Oblivious.of_record {f : State → State → γ × State} (hf : ∀ r, Oblivious (f r))
    (he : ∀ s, f s s = f s.record s) : Oblivious fun s => f s s :=
  .andThen .record fun r => ⟨f r, hf r, by rintro s t ⟨⟩; exact he s⟩

theorem Oblivious.read (a : Byte) : Oblivious (RA.read a) :=
  .of_record (f := fun r s => if 0x1F < a then Proc.fail .length s else
    Proc.bind (RA.frame (cmdRead a :: dummies r.params.dummyByte 1)) (fun data => Proc.ret (data.getD 1 0)) s)
    (fun _ => .check (.frameThen _ _)) fun _ => rfl

theorem Oblivious.readMulti (a : Byte) (n : Int) : Oblivious (RA.readMulti a n) :=
  .of_record (f := fun r s => if 0x1F < a ∨ n < 1 ∨ 32 < n then Proc.fail .length s else
    Proc.bind (RA.frame (cmdRead a :: dummies r.params.dummyByte n.toNat)) (fun data => Proc.ret data.tail) s)
    (fun _ => .check (.frameThen _ _)) fun _ => rfl

theorem Oblivious.readPayload : Oblivious RA.readPayload :=
  .of_record
    (f := fun r => Proc.bind (RA.frame (cmdReadPayload :: dummies r.params.dummyByte 32)) fun data => Proc.ret data.tail)
    (fun _ => .frameThen _ _) fun _ => rfl

theorem Oblivious.initRun : Oblivious fun s => Proc.seq (initSteps s) s := by
  refine .of_record (f := fun r => Proc.seq (initSteps r)) (fun r => .seq ?_) fun _ => rfl
  simp only [initSteps, List.forall_mem_cons]
  exact ⟨.setLine _ _, .setLine _ _, .wait _, .write _ _, .write _ _, .write _ _, .write _ _, .writeMulti _ _,
    .writeMulti _ _, .write _ _, .write _ _, .write _ _, .write _ _, .flushTx, .flushRx, by simp⟩

theorem Oblivious.enterTransmit : Oblivious MC.enterTransmit := .seq <| by
  simp only [List.forall_mem_cons]
  exact ⟨.setLine _ _, .write _ _, .wait _, .enterRadio _, by simp⟩

theorem Oblivious.enterReceive : Oblivious MC.enterReceive := .seq <| by
  simp only [List.forall_mem_cons]
  exact ⟨.setLine _ _, .write _ _, .wait _, .setLine _ _, .enterRadio _, by simp⟩

theorem Oblivious.poll : ∀ n, Oblivious (PT.poll n)
  | 0 => .fail _
  | n + 1 => .bind .status fun _ =>
      .ite (.bind (.write _ _) fun _ => .ite (.ret _) (.fail _)) (.bind (.wait _) fun _ => Oblivious.poll n)

theorem Oblivious.transmit (p : Bytes) : Oblivious (PT.transmit p) := .bind (.seq <| by
  simp only [List.forall_mem_cons]
  exact ⟨.flushTx, .writePayload _, .setLine _ _, .wait _, .setLine _ _, by simp⟩) fun _ => .poll _

theorem Oblivious.receive : Oblivious PT.receive := .bind .status fun _ =>
  .ite (.bind (.write _ _) fun _ => .bind .readPayload fun _ => .ret _) (.ret _)

theorem Oblivious.apply (c p : Int) : Oblivious (RC.apply c p) :=
  .bind (.write _ _) fun _ => .bind (.read _) fun _ => .write _ _

/-! ## The handlers -/

theorem Oblivious.drvInit : Oblivious DRV.init := by
  refine .andThen .initRun fun x => ?_
  cases x with
  | ok => exact ⟨fun t => (.ok, t.setRadio .standby), .update (fun _ => rfl) fun _ _ _ _ _ => rfl,
      fun s t h => (drvInit_eq s).trans (congrArg initEnd h)⟩
  | error r => exact ⟨fun t => (.failure r, t.setRadio .uninitialized), .update (fun _ => rfl) fun _ _ _ _ _ => rfl,
      fun s t h => (drvInit_eq s).trans (congrArg initEnd h)⟩

/-- Whether the block is initialized is in the record. -/
theorem Oblivious.initialized : Oblivious fun s => (s.initialized, s) := .update (fun _ => rfl) fun _ _ _ _ _ => rfl

theorem Oblivious.guarded {h : State → Response × State} (hh : Oblivious h) : Oblivious (DRV.guarded h) := by
  refine .andThen .initialized fun b => ?_
  cases b with
  | true =>
    refine ⟨h, hh, fun s t e => ?_⟩
    obtain ⟨hi, rfl⟩ := Prod.mk.inj e
    simp [DRV.guarded, hi]
  | false =>
    refine ⟨_, .const .notReady, fun s t e => ?_⟩
    obtain ⟨hi, rfl⟩ := Prod.mk.inj e
    simp [DRV.guarded, hi]

/-- A handler that only turns its procedure's result into a response. -/
theorem Oblivious.responding {p : Proc α} {h : State → Response × State} (hp : Oblivious p)
    (hh : ∀ x, ∃ r, ∀ s t, p s = (x, t) → h s = (r, t)) : Oblivious h :=
  .andThen hp fun x => by
    obtain ⟨r, hr⟩ := hh x
    exact ⟨_, .const r, hr⟩

/-- CONFIGURE with valid operands in an initialized block (R233). -/
def configureApplying (c p : Int) (s : State) : Response × State :=
  match RC.apply c p s with
  | (.ok _, t) => (.ok, t.setChannelPower c p)
  | (.error r, t) => (.failure r, t)

theorem Oblivious.configureApplying (c p : Int) : Oblivious (configureApplying c p) := by
  refine .andThen (.apply c p) fun x => ?_
  cases x with
  | ok => exact ⟨fun t => (.ok, t.setChannelPower c p), .update (fun _ => rfl) fun _ _ _ _ _ => rfl,
      fun s t h => by simp only [Machine.configureApplying, h]⟩
  | error r => exact ⟨_, .const (.failure r), fun s t h => by simp only [Machine.configureApplying, h]⟩

theorem Oblivious.drvConfigure (c p : Int) : Oblivious (DRV.configure c p) := by
  by_cases hv : RC.validate c p = true
  · refine .andThen .initialized fun b => ?_
    cases b with
    | true =>
      refine ⟨Machine.configureApplying c p, .configureApplying c p, fun s t e => ?_⟩
      obtain ⟨hi, rfl⟩ := Prod.mk.inj e
      simp only [DRV.configure, hv, hi, if_true]
      rfl
    | false =>
      refine ⟨fun t => (.ok, t.setChannelPower c p), .update (fun _ => rfl) fun _ _ _ _ _ => rfl, fun s t e => ?_⟩
      obtain ⟨hi, rfl⟩ := Prod.mk.inj e
      simp [DRV.configure, hv, hi]
  · have e : DRV.configure c p = fun s => (.validationError, s) := by
      funext s
      simp [DRV.configure, hv]
    exact e ▸ .const _

theorem Oblivious.drvSend (p : Bytes) : Oblivious (DRV.send p) :=
  .guarded (.responding (.bind .enterTransmit fun _ => .transmit p) fun x => ⟨respond x, fun s t h => by simp only [h]⟩)

theorem Oblivious.drvStartReceive : Oblivious DRV.startReceive :=
  .guarded (.responding .enterReceive fun x => ⟨respond x, fun s t h => by simp only [h]⟩)

theorem Oblivious.drvReceive : Oblivious DRV.receive :=
  .guarded (.responding .receive fun x => by
    cases x with
    | ok d => exact ⟨.received d, fun s t h => by simp only [h]⟩
    | error r => exact ⟨.failure r, fun s t h => by simp only [h]⟩)

/-! ## The instructions -/

/-- The instruction adds the same events and the same result to any past, and else does the same. -/
def Forgets (i : Instr) : Prop :=
  ∀ (s : State) (tr : List Event) (rs : List Result) (port : Program) (sq : Seq), ∃ t es r, exec i s = .next t ∧
    Did s es r t ∧ exec i (s.withPast tr rs port sq) = .next (t.withPast (tr ++ es) (rs ++ [r]) port .idle)

theorem Forgets.of_oblivious {i : Instr} {p : State → γ × State} (g : γ → Result) (hp : Oblivious p)
    (he : ∀ s, exec i s = .next ((p s).2.finish (g (p s).1))) : Forgets i := by
  intro s tr rs port sq
  obtain ⟨es, ht, h⟩ := hp s
  obtain ⟨sq', h'⟩ := h tr rs port sq
  obtain ⟨-, -, es', r, hd⟩ := exec_hands_over (he s)
  obtain ⟨-, rfl⟩ : (p s).2.results = s.results ∧ g (p s).1 = r := by simpa using hd.results
  obtain rfl : es = es' := List.append_cancel_left (ht.symm.trans hd.trace)
  exact ⟨_, es, _, he s, hd, by rw [he, h']; rfl⟩

theorem exec_forgets (i : Instr) : Forgets i := by
  cases i with
  | rRegister a => exact .of_oblivious accessResult (.bind (.read a) fun _ => .ret _) fun _ => rfl
  | rRegisterMulti a n => exact .of_oblivious accessResult (.readMulti a n) fun _ => rfl
  | wRegister a v => exact .of_oblivious accessResult (.bind (.write a v) fun _ => .ret _) fun _ => rfl
  | wRegisterMulti a bs => exact .of_oblivious accessResult (.bind (.writeMulti a bs) fun _ => .ret _) fun _ => rfl
  | rRxPayload => exact .of_oblivious accessResult .readPayload fun _ => rfl
  | wTxPayload q => exact .of_oblivious accessResult (.bind (.writePayload q) fun _ => .ret _) fun _ => rfl
  | flushTx => exact .of_oblivious accessResult (.bind .flushTx fun _ => .ret _) fun _ => rfl
  | flushRx => exact .of_oblivious accessResult (.bind .flushRx fun _ => .ret _) fun _ => rfl
  | nop => exact .of_oblivious accessResult (.bind .status fun _ => .ret _) fun _ => rfl
  | init => exact .of_oblivious .response .drvInit fun _ => rfl
  | configure c p => exact .of_oblivious .response (.drvConfigure c p) fun _ => rfl
  | send p => exact .of_oblivious .response (.drvSend p) fun _ => rfl
  | startReceive => exact .of_oblivious .response .drvStartReceive fun _ => rfl
  | receive => exact .of_oblivious .response .drvReceive fun _ => rfl

/-- Settles O60. -/
theorem historyDoesNotMatter : Obligations.HistoryDoesNotMatter := by
  intro s i tr rs port sq
  obtain ⟨t, es, r, he, hd, h⟩ := exec_forgets i s tr rs port sq
  obtain ⟨-, hseq, -⟩ := exec_hands_over he
  refine ⟨t, es, r, he, hd, h.trans ?_⟩
  rw [State.withPast, ← hseq]

end Sys2Proof.Machine
end
